-- ==== Sys2Proof/Word.lean ====
section
/-!
DEFINITION. The value types of the engine (00_scope.md R7 to R9): bytes, the 64-bit words of the CORE, the
128-bit length counter. All are unsigned; `+` on them wraps, so `+` on `Word` is ADD64 (40_compression_core.md R80).
-/

namespace Sys2Proof

/-- A byte: 8 bits, value 0..255 (R8). -/
abbrev Byte := BitVec 8

/-- `u64`, WORD_BITS = 64 (R7, R9). -/
abbrev Word := BitVec 64

/-- `u128`, the width LEN_BITS = 128 of the length counter (R7, R9, R24). -/
abbrev U128 := BitVec 128

/-- An 8 x 64-bit state, STATE_WORDS = 8 (R7, R21, R95). -/
abbrev Hash := Vector Word 8

end Sys2Proof
end

