-- ==== Sys2Proof/Machine/Functions.lean ====
section
/-!
DEFINITION. The word primitives and the six logical functions of the CORE (40_compression_core.md R81 to R89). ADD64
(R80) is `+` on `Word`; the bitwise operators (R83) are `&&&`, `|||`, `^^^` and `~~~`.
-/

namespace Sys2Proof.Machine

/-- ROTR (R81): rotate right by a constant 1 ≤ n ≤ 63. -/
def rotr (x : Word) (n : Nat) : Word :=
  (x >>> n) ||| (x <<< (64 - n))

/-- SHR (R82): logical shift right. -/
def shr (x : Word) (n : Nat) : Word :=
  x >>> n

/-- Ch (R84). -/
def ch (e f g : Word) : Word :=
  (e &&& f) ^^^ (~~~e &&& g)

/-- Maj (R85). -/
def maj (a b c : Word) : Word :=
  (a &&& b) ^^^ (a &&& c) ^^^ (b &&& c)

/-- Σ0 (R86). -/
def bigSigma0 (x : Word) : Word :=
  rotr x 28 ^^^ rotr x 34 ^^^ rotr x 39

/-- Σ1 (R87). -/
def bigSigma1 (x : Word) : Word :=
  rotr x 14 ^^^ rotr x 18 ^^^ rotr x 41

/-- σ0 (R88): its third term is a shift. -/
def smallSigma0 (x : Word) : Word :=
  rotr x 1 ^^^ rotr x 8 ^^^ shr x 7

/-- σ1 (R89): its third term is a shift. -/
def smallSigma1 (x : Word) : Word :=
  rotr x 19 ^^^ rotr x 61 ^^^ shr x 6

end Sys2Proof.Machine
end

