-- ==== Sys2Proof/Config.lean ====
section
/-!
DEFINITION. What is fixed for the machine (00_scope.md R7) and the free values (10_state.md R28 to R30: the scratch
registers have no defined value outside a compression; 93_implementation_defined.md U4: any value).
-/

namespace Sys2Proof

/-- BLOCK_BYTES (R7). -/
abbrev Config.blockBytes : Nat := 128

/-- ROUNDS = SCHED_WORDS (R7). -/
abbrev Config.rounds : Nat := 80

/-- BLOCK_WORDS (R7). -/
abbrev Config.blockWords : Nat := 16

/-- MAX_PLEN (R7, D6). -/
abbrev Config.maxPlen : Nat := 65535

/-- HDR_BYTES (R7, D4). -/
abbrev Config.hdrBytes : Nat := 4

/-- PAD_RESIDUE (R7). -/
abbrev Config.padResidue : Nat := 112

/-- LENFIELD_BYTES (R7). -/
abbrev Config.lenFieldBytes : Nat := 16

/-- The free 64-bit value of register number `r` of the scratch registers (a..h are 0..7, T1 and T2 are 8 and 9,
W[t] is 10 + t) the `k`-th time they become unspecified. Nothing constrains it (log entry 2). That it is keyed by the
count and the register and not by the engine is the model's choice (DESIGN CHOICE, log entry 19). -/
opaque Config.freeWord : (k r : Nat) → Word

/-- The free round index, within the bound 0..79 that R30 sets (log entry 2); keyed by the count alone (DESIGN CHOICE,
log entry 19). -/
opaque Config.freeIndex : (k : Nat) → Fin 80

end Sys2Proof
end

