-- ==== Sys2Proof/Machine/Operands.lean ====
section
/-!
DEFINITION. The byte orders of the engine (00_scope.md R10, 20_memory.md R41 to R43) and the two byte sequences FINALIZE
builds: the padded tail (41_streaming_context.md R105) and the digest (R107). The payload of UPDATE is assembled by the
decoder (30_encoding.md R65).
-/

namespace Sys2Proof.Machine

/-- `MemRead(B, off, n)` (R10): the unsigned integer whose big-endian form is `B[off .. off+n-1]`. A byte beyond the end
of `B` reads as 0; no command reads one (log entry 15). -/
def memRead (B : List Byte) (off : Nat) : (n : Nat) → Nat
  | 0 => 0
  | n + 1 => memRead B off n * 256 + (B.getD (off + n) 0).toNat

/-- `be_n(v)` (R10): the n-byte big-endian form of v. -/
def beBytes : (n v : Nat) → List Byte
  | 0, _ => []
  | n + 1, v => BitVec.ofNat 8 (v / 256 ^ n) :: beBytes n v

/-- z of R105: the least non-negative residue of 111 - N modulo 128. -/
def padZeros (n : Nat) : Nat :=
  ((111 - (n : Int)) % 128).toNat

/-- L of R105: the message length in bits modulo 2^128, by a left shift of 3 (R117). -/
def bitLength (len : U128) : U128 :=
  len <<< 3

/-- PAD (R105): the padded tail of a message. -/
def pad (buf : List Byte) (len : U128) : List Byte :=
  buf ++ [0x80] ++ List.replicate (padZeros buf.length) 0x00 ++ beBytes Config.lenFieldBytes (bitLength len).toNat

/-- SERIALIZE (R107, 20_memory.md R43): the first six state words, big-endian. -/
def serialize (H : Hash) : List Byte :=
  beBytes 8 H[0].toNat ++ beBytes 8 H[1].toNat ++ beBytes 8 H[2].toNat ++
    beBytes 8 H[3].toNat ++ beBytes 8 H[4].toNat ++ beBytes 8 H[5].toNat

end Sys2Proof.Machine
end

