-- ==== Sys2Proof/Syntax.lean ====
section
/-!
DEFINITION. The commands of the engine, one constructor per row of spec/opcode_table.json (30_encoding.md R63).
RESET is another spelling of INIT and SUM of FINALIZE (R71): they share the row and the constructor.
-/

namespace Sys2Proof

/-- A command as the CTX executes it. -/
inductive Instr where
  /-- INIT, alias RESET (41_streaming_context.md R101). -/
  | init
  /-- UPDATE with its payload d[0], d[1], ..., first byte first (R62, R102). -/
  | update (payload : List Byte)
  /-- FINALIZE, alias SUM (R108). -/
  | finalize
  deriving DecidableEq, Repr

end Sys2Proof
end

