-- ==== Sys2Proof/WellFormed.lean ====
section
/-!
DEFINITION. Which commands have an encoding: the payload of UPDATE has at most MAX_PLEN = 65535 bytes
(30_encoding.md R65, R70). INIT and FINALIZE have no operand to check.
-/

namespace Sys2Proof

/-- The payload of a command; format Z has none (R61, R62). -/
def Instr.payload : Instr → List Byte
  | .init => []
  | .update d => d
  | .finalize => []

/-- The payload fits PLEN (R65). -/
def Instr.wf (i : Instr) : Bool :=
  decide (i.payload.length ≤ Config.maxPlen)

end Sys2Proof
end

