-- ==== Sys2Proof/Decode.lean ====
section
/-!
DEFINITION. The command packets (30_encoding.md): the header word and its fields (R61), the total decoder (R64, R67)
with the illegal encodings rejected by cause (R66), the encoder (R61 to R63), and the reading of a row of
spec/opcode_table.json as bytes.
-/

namespace Sys2Proof

/-- The causes of the decode fault (60_exceptions.md R122). -/
inductive Cause where
  /-- ILLEGAL_OPCODE, code 1: OPC is none of 0x01, 0x02, 0x03. -/
  | illegalOpcode
  /-- RESERVED_NONZERO, code 2: RSV is not 0, or PLEN is not 0 in format Z. -/
  | reservedNonzero
  deriving DecidableEq, Repr

/-- The three fields of a header (R61). -/
structure Header where
  /-- OPC = hdr[31:24]. -/
  opc : Byte
  /-- RSV = hdr[23:16]. -/
  rsv : Byte
  /-- PLEN = hdr[15:0], unsigned (R65). -/
  plen : BitVec 16
  deriving DecidableEq, Repr

/-- The four classes of a header (R67). -/
inductive HeaderClass where
  | illegal (c : Cause)
  | init
  | update (plen : Nat)
  | finalize
  deriving DecidableEq, Repr

/-- What the decoder finds at the front of RXQ (R64, R67). -/
inductive Decoded where
  /-- No packet is complete. -/
  | wait
  /-- An illegal header; `rest` are the bytes after its 4. -/
  | illegal (c : Cause) (rest : List Byte)
  /-- A complete legal packet; `rest` are the bytes after it. -/
  | packet (i : Instr) (rest : List Byte)
  deriving DecidableEq, Repr

/-- hdr = b0·2^24 + b1·2^16 + b2·2^8 + b3 (R61, 20_memory.md R44). -/
def headerWord (b0 b1 b2 b3 : Byte) : BitVec 32 :=
  b0 ++ b1 ++ b2 ++ b3

/-- The fields of a header word (R61). -/
def headerFields (hdr : BitVec 32) : Header where
  opc := hdr.extractLsb' 24 8
  rsv := hdr.extractLsb' 16 8
  plen := hdr.extractLsb' 0 16

/-- The classification of R67, in its order. -/
def classify (f : Header) : HeaderClass :=
  if f.opc ≠ 0x01 ∧ f.opc ≠ 0x02 ∧ f.opc ≠ 0x03 then .illegal .illegalOpcode
  else if f.rsv ≠ 0x00 then .illegal .reservedNonzero
  else if (f.opc = 0x01 ∨ f.opc = 0x03) ∧ f.plen ≠ 0 then .illegal .reservedNonzero
  else if f.opc = 0x01 then .init
  else if f.opc = 0x03 then .finalize
  else .update f.plen.toNat

/-- What a classified header makes of the bytes after it (R64): UPDATE takes PLEN payload bytes and waits for them. -/
def takePayload (k : HeaderClass) (rest : List Byte) : Decoded :=
  match k with
  | .illegal c => .illegal c rest
  | .init => .packet .init rest
  | .finalize => .packet .finalize rest
  | .update n => if rest.length < n then .wait else .packet (.update (rest.take n)) (rest.drop n)

/-- The decoder (R64, R67), total on any bytes. -/
def decode (rxq : List Byte) : Decoded :=
  match rxq with
  | b0 :: b1 :: b2 :: b3 :: rest => takePayload (classify (headerFields (headerWord b0 b1 b2 b3))) rest
  | _ => .wait

/-- The operation codes (R63). -/
def Instr.opc : Instr → Byte
  | .init => 0x01
  | .update _ => 0x02
  | .finalize => 0x03

/-- The four header bytes in arrival order: OPC, RSV = 0, PLEN high byte first (R61, R65). -/
def encodeHeader (opc : Byte) (plen : Nat) : List Byte :=
  [opc, 0x00, BitVec.ofNat 8 (plen / 256), BitVec.ofNat 8 plen]

/-- The bytes of a well-formed command's packet (R61, R62). -/
def encode (i : Instr) : List Byte :=
  encodeHeader i.opc i.payload.length ++ i.payload

/-- The length of a command's packet (R64). -/
def Instr.packetLength (i : Instr) : Nat :=
  Config.hdrBytes + i.payload.length

/-- The bytes of the packet whose bits are `w`, numbered as spec/opcode_table.json numbers them: the header word is
bits 31..0 and goes out big-endian, payload byte k is bits 39+8k..32+8k, and every bit from `nbits` up is 0
(log entry 10). A header that is no legal UPDATE has no payload. -/
def tableBytes (nbits w : Nat) : List Byte :=
  let v := w % 2 ^ nbits
  let hdr : BitVec 32 := BitVec.ofNat 32 v
  let header : List Byte :=
    [hdr.extractLsb' 24 8, hdr.extractLsb' 16 8, hdr.extractLsb' 8 8, hdr.extractLsb' 0 8]
  match classify (headerFields hdr) with
  | .update n => header ++ (List.range n).map fun k => BitVec.ofNat 8 (v / 2 ^ (32 + 8 * k))
  | _ => header

/-- The command the decoder reads from the packet of `tableBytes`. -/
def decodeTableWord (nbits w : Nat) : Option Instr :=
  match decode (tableBytes nbits w) with
  | .packet i _ => some i
  | _ => none

end Sys2Proof
end

