-- ==== Sys2Proof/Machine/State.lean ====
section
/-!
DEFINITION. The state of one engine (10_state.md R20): the persistent registers of the CTX, the scratch registers of
the CORE, the two ports' byte sequences, and the value of each after hardware reset (R34). Plain data.
-/

namespace Sys2Proof.Machine

/-- PHASE (R25): FRESH = 0, ACCUM = 1. -/
inductive Phase where
  | fresh
  | accum
  deriving DecidableEq, Repr

/-- The scratch registers of the CORE (R28 to R30). -/
structure Scratch where
  /-- working variable a (R28) -/
  a : Word
  /-- working variable b (R28) -/
  b : Word
  /-- working variable c (R28) -/
  c : Word
  /-- working variable d (R28) -/
  d : Word
  /-- working variable e (R28) -/
  e : Word
  /-- working variable f (R28) -/
  f : Word
  /-- working variable g (R28) -/
  g : Word
  /-- working variable h (R28) -/
  h : Word
  /-- the message schedule W[0..79] (R29) -/
  w : Vector Word 80
  /-- T1 of the round (R30) -/
  t1 : Word
  /-- T2 of the round (R30) -/
  t2 : Word
  /-- the round index, 0..79 (R30) -/
  t : Fin 80
  deriving DecidableEq, Repr

/-- The complete state of one engine (R20). -/
structure State where
  /-- H[0..7], the chaining value (R21) -/
  H : Hash
  /-- BUF, the bytes absorbed since the last block boundary; N is its length (R23) -/
  buf : List Byte
  /-- LEN, the bytes absorbed since the last return to Fresh, modulo 2^128 (R24) -/
  len : U128
  /-- PHASE (R25) -/
  phase : Phase
  /-- FAULT (R26) -/
  fault : Bool
  /-- FCAUSE (R26): 0 none, 1 ILLEGAL_OPCODE, 2 RESERVED_NONZERO -/
  fcause : BitVec 2
  /-- RXQ, the bytes received on CMD_IN that belong to no executed command, oldest first (R32) -/
  rxq : List Byte
  /-- RSP_OUT, the bytes emitted and not yet read by HOST, oldest first (20_memory.md R40; log entry 14) -/
  rspOut : List Byte
  /-- the CORE's scratch registers (R28 to R30) -/
  scratch : Scratch
  /-- the MODEL's own counter of free values drawn for the scratch registers (log entry 2) -/
  freeCount : Nat
  deriving DecidableEq, Repr

/-- Why a step stops the machine. -/
inductive Fault where
  /-- Answered by `step` while FAULT = 1, with FCAUSE: the engine is inert until hardware reset (60_exceptions.md
  R125: "a model treats it as a fault state that is never a successful end of a run"). Safe: nothing is claimed of a
  next state, and the spec gives none (log entry 5). -/
  | inert (fcause : BitVec 2)
  deriving DecidableEq, Repr

/-- Why a step has no meaning. -/
inductive Refusal where
  /-- The form for a command without a meaning. No arm of `exec` raises it: all three commands are modelled. Safe. -/
  | notModelled (mnemonic : String)
  deriving DecidableEq, Repr

/-- The scratch registers at reset. The spec leaves them unspecified (R34); zero is the model's value (DESIGN CHOICE,
log entry 1, unsafe). -/
def Scratch.reset : Scratch where
  a := 0
  b := 0
  c := 0
  d := 0
  e := 0
  f := 0
  g := 0
  h := 0
  w := Vector.replicate 80 0
  t1 := 0
  t2 := 0
  t := 0

/-- The engine right after hardware reset (R34). -/
def State.reset : State where
  H := iv
  buf := []
  len := 0
  phase := .fresh
  fault := false
  fcause := 0
  rxq := []
  rspOut := []
  scratch := Scratch.reset
  freeCount := 0

end Sys2Proof.Machine
end

