-- ==== Sys2Proof/Machine/Compression.lean ====
section
/-!
DEFINITION. The Compression Core as operations on its scratch registers, step by step (40_compression_core.md R90 to
R95). A loop "for t in 0..n-1" is a recursion on n whose last iteration is t = n - 1.
-/

namespace Sys2Proof.Machine

/-- Reads W[t], t < 80 (10_state.md R29). -/
def readW (x : Scratch) (t : Nat) : Word :=
  x.w.getD t 0

/-- W[t] <- v. -/
def writeW (x : Scratch) (t : Nat) (v : Word) : Scratch :=
  { x with w := x.w.setIfInBounds t v }

/-- The first n word loads of PARSE (R90): W[j] <- MemRead(B, 8j, 8) for j < n. -/
def parseLoop (B : List Byte) (x : Scratch) : (n : Nat) → Scratch
  | 0 => x
  | j + 1 => writeW (parseLoop B x j) j (BitVec.ofNat 64 (memRead B (8 * j) 8))

/-- PARSE (R90): all 16 words. -/
def parseBlock (B : List Byte) (x : Scratch) : Scratch :=
  parseLoop B x Config.blockWords

/-- One step of SCHEDULE (R91), 16 ≤ t ≤ 79. -/
def scheduleWord (t : Nat) (x : Scratch) : Scratch :=
  writeW x t (smallSigma1 (readW x (t - 2)) + readW x (t - 7) + smallSigma0 (readW x (t - 15)) + readW x (t - 16))

/-- The first n steps of SCHEDULE: t = 16, ..., 15 + n. -/
def scheduleLoop (x : Scratch) : (n : Nat) → Scratch
  | 0 => x
  | n + 1 => scheduleWord (Config.blockWords + n) (scheduleLoop x n)

/-- SCHEDULE (R91): t = 16, ..., 79. -/
def schedule (x : Scratch) : Scratch :=
  scheduleLoop x (Config.rounds - Config.blockWords)

/-- LOADVARS (R92). -/
def loadVars (S : Hash) (x : Scratch) : Scratch :=
  { x with a := S[0], b := S[1], c := S[2], d := S[3], e := S[4], f := S[5], g := S[6], h := S[7] }

/-- ROUND t (R93): the assignment of a..h is parallel. -/
def coreRound (t : Nat) (x : Scratch) : Scratch :=
  let t1 := x.h + bigSigma1 x.e + ch x.e x.f x.g + kAt t + readW x t
  let t2 := bigSigma0 x.a + maj x.a x.b x.c
  { x with
    t := Fin.ofNat 80 t, t1 := t1, t2 := t2,
    a := t1 + t2, b := x.a, c := x.b, d := x.c, e := x.d + t1, f := x.e, g := x.f, h := x.g }

/-- Rounds 0, ..., n - 1 in that order. -/
def roundLoop (x : Scratch) : (n : Nat) → Scratch
  | 0 => x
  | n + 1 => coreRound n (roundLoop x n)

/-- ADDBACK (R94): the H on the right is the value the compression started from. -/
def addBack (S : Hash) (x : Scratch) : Hash :=
  #v[S[0] + x.a, S[1] + x.b, S[2] + x.c, S[3] + x.d, S[4] + x.e, S[5] + x.f, S[6] + x.g, S[7] + x.h]

/-- The scratch registers after steps R90 to R93 on state S and block B, begun with whatever they held. -/
def runCore (S : Hash) (B : List Byte) (x : Scratch) : Scratch :=
  roundLoop (loadVars S (schedule (parseBlock B x))) Config.rounds

/-- COMPRESS (R95) begun with scratch contents x. -/
def compressFrom (x : Scratch) (S : Hash) (B : List Byte) : Hash :=
  addBack S (runCore S B x)

/-- COMPRESS (R95) as the pure function of S and B that it is; Laws/Core.lean shows that the scratch contents it begins
with do not matter. -/
def compress (S : Hash) (B : List Byte) : Hash :=
  compressFrom Scratch.reset S B

/-- The scratch registers once they have become unspecified for the k-th time (R28 to R30, U4): free values
(log entry 2). The spec leaves them open in each engine on its own (R37, 60_exceptions.md R130); here they depend on k
alone, so two engines that have made equally many compressions hold the same ones (DESIGN CHOICE, log entry 19, unsafe for
a claim that compares the scratch registers of two engines). -/
def freeScratch (k : Nat) : Scratch where
  a := Config.freeWord k 0
  b := Config.freeWord k 1
  c := Config.freeWord k 2
  d := Config.freeWord k 3
  e := Config.freeWord k 4
  f := Config.freeWord k 5
  g := Config.freeWord k 6
  h := Config.freeWord k 7
  t1 := Config.freeWord k 8
  t2 := Config.freeWord k 9
  w := Vector.ofFn fun i => Config.freeWord k (10 + i)
  t := Config.freeIndex k

end Sys2Proof.Machine
end

