-- ==== Sys2Proof/Machine/Flags.lean ====
section
/-!
DEFINITION. The status bits and codes: PHASE after UPDATE (41_streaming_context.md R102, R110), the cause codes of FCAUSE
(10_state.md R26, 60_exceptions.md R122) and the status bytes of the responses (30_encoding.md R69). The CORE writes no
flag (40_compression_core.md).
-/

namespace Sys2Proof.Machine

/-- PHASE after an UPDATE of n bytes (R102, R103): ACCUM when n ≥ 1, else unchanged. -/
def phaseAfterUpdate (n : Nat) (p : Phase) : Phase :=
  if 1 ≤ n then .accum else p

/-- The cause code latched in FCAUSE (R122). -/
def causeCode : Cause → BitVec 2
  | .illegalOpcode => 1
  | .reservedNonzero => 2

/-- Status byte 0x00 OK (R69). -/
def statusOk : Byte := 0x00

/-- The status byte of a fault response equals the FCAUSE code (R69). -/
def statusOfCause (c : Cause) : Byte :=
  (causeCode c).setWidth 8

end Sys2Proof.Machine
end

