-- ==== Sys2Proof/Machine/Ops.lean ====
section
/-!
DEFINITION. The named operations on the state that the commands share (41_streaming_context.md), taking the decode fault
(60_exceptions.md R124) and, beside it, the only way out of it, hardware reset (R126, 70_reset_and_hazards.md R140).
-/

namespace Sys2Proof.Machine

/-- Removes the packet at the front of RXQ: `rest` follows it (R100, 10_state.md R32). -/
def State.takePacket (rest : List Byte) (s : State) : State :=
  { s with rxq := rest }

/-- `respond(r)` (00_scope.md R10): appends r to RSP_OUT. -/
def State.respond (r : List Byte) (s : State) : State :=
  { s with rspOut := s.rspOut ++ r }

/-- The return to Fresh that INIT and the tail of FINALIZE share (R101, R108, 70_reset_and_hazards.md R141). -/
def State.resetContext (s : State) : State :=
  { s with H := iv, buf := [], len := 0, phase := .fresh }

/-- LEN <- (LEN + n) mod 2^128 (R102, R117). -/
def State.addLen (n : Nat) (s : State) : State :=
  { s with len := s.len + BitVec.ofNat 128 n }

/-- PHASE after an UPDATE of n bytes (R102). -/
def State.setPhaseAfterUpdate (n : Nat) (s : State) : State :=
  { s with phase := phaseAfterUpdate n s.phase }

/-- BUF <- B. -/
def State.setBuf (B : List Byte) (s : State) : State :=
  { s with buf := B }

/-- H <- COMPRESS(H, B) (40_compression_core.md R96). The CORE works in the scratch registers, which are unspecified
afterwards (10_state.md R28 to R30; log entry 2). -/
def State.compressBlock (B : List Byte) (s : State) : State :=
  { s with
    H := compressFrom s.scratch s.H B, scratch := freeScratch s.freeCount, freeCount := s.freeCount + 1 }

/-- One turn of UPDATE's loop (R102): BUF <- BUF ++ [d], and a full BUF is compressed and emptied. -/
def absorbByte (s : State) (d : Byte) : State :=
  let s' := s.setBuf (s.buf ++ [d])
  if s'.buf.length = Config.blockBytes then (s'.compressBlock s'.buf).setBuf [] else s'

/-- UPDATE's loop over the payload, d[0] first (R102). -/
def absorb (D : List Byte) (s : State) : State :=
  D.foldl absorbByte s

/-- FINALIZE's compressions of the padded tail P (R108): the first block, and the second when |P| = 256. -/
def compressTail (P : List Byte) (s : State) : State :=
  let s' := s.compressBlock (P.take 128)
  if P.length = 256 then s'.compressBlock ((P.drop 128).take 128) else s'

/-- Fault entry (R124): the 4 header bytes leave RXQ and the rest of it is discarded, FAULT <- 1, FCAUSE <- c, response
[c]; the context is kept. -/
def State.enterFault (c : Cause) (s : State) : State :=
  { s with rxq := [], fault := true, fcause := causeCode c, rspOut := s.rspOut ++ [statusOfCause c] }

/-- A hardware reset (R140, 10_state.md R34), the only exit from FAULT (R126). Bytes already emitted on RSP_OUT are not
recalled (R34, R142; log entry 14); the scratch registers are unspecified and take State.reset's values (log entry 3). -/
def State.hwReset (s : State) : State :=
  { State.reset with rspOut := s.rspOut, freeCount := s.freeCount }

/-- The step that takes the decode fault: a next state. -/
def takeDecodeFault (c : Cause) (s : State) : Host.Outcome State Fault Refusal :=
  .next (s.enterFault c)

/-- The step while no packet is complete (R132): the engine waits with its state held (log entry 4). -/
def holdWaiting (s : State) : Host.Outcome State Fault Refusal :=
  .next s

/-- The step while FAULT = 1 (R125): the engine is inert (log entry 5). -/
def stayInert (s : State) : Host.Outcome State Fault Refusal :=
  .fault (.inert s.fcause)

end Sys2Proof.Machine
end

