-- ==== Sys2Proof/Machine/Streaming.lean ====
section
/-!
DEFINITION. The meanings of the three commands (41_streaming_context.md R101, R102, R108). Each runs after its packet has
been removed from RXQ and appends its whole response (R100). None tests FAULT: while FAULT = 1 no command is decoded
(60_exceptions.md R125), which `step` sees to (log entry 11).
-/

namespace Sys2Proof.Machine

/-- INIT (R101). -/
def execInit (s : State) : Host.Outcome State Fault Refusal :=
  .next (s.resetContext.respond [statusOk])

/-- UPDATE (R102, R103): an empty payload changes nothing but the response. -/
def execUpdate (D : List Byte) (s : State) : Host.Outcome State Fault Refusal :=
  let n := D.length
  let s' := if 1 ≤ n then absorb D ((s.addLen n).setPhaseAfterUpdate n) else s
  .next (s'.respond [statusOk])

/-- FINALIZE (R108): pad, compress one or two blocks, respond with the digest, then reset the context. -/
def execFinalize (s : State) : Host.Outcome State Fault Refusal :=
  let s' := compressTail (pad s.buf s.len) s
  .next ((s'.respond (statusOk :: serialize s'.H)).resetContext)

end Sys2Proof.Machine
end

