-- ==== Sys2Proof/Machine/Dispatch.lean ====
section
/-!
DEFINITION. The dispatch of a decoded command to its meaning.
-/

namespace Sys2Proof.Machine

def exec (i : Instr) (s : State) : Host.Outcome State Fault Refusal :=
  match i with
  | .init => Sys2Proof.Machine.execInit s
  | .update payload => Sys2Proof.Machine.execUpdate payload s
  | .finalize => Sys2Proof.Machine.execFinalize s

end Sys2Proof.Machine
end

