-- ==== Sys2Proof/Machine/Step.lean ====
section
/-!
DEFINITION. One step of the engine (10_state.md R32, 41_streaming_context.md R100, 60_exceptions.md R124, R125, R132):
inert while FAULT = 1; otherwise the decoder looks at RXQ, and the engine waits, takes the decode fault, or removes the
packet and executes it.
-/

namespace Sys2Proof.Machine

def step (s : State) : Host.Outcome State Fault Refusal :=
  if s.fault then stayInert s
  else
    match decode s.rxq with
    | .wait => holdWaiting s
    | .illegal c _ => takeDecodeFault c s
    | .packet i rest => exec i (s.takePacket rest)

/-- `s` with the packet of an opcode-table word at the front of RXQ and FAULT clear, so that the next step runs it. A
program reaches the engine only as bytes that HOST sends on CMD_IN (log entry 7). -/
def State.withFetchWord (s : State) (nbits w : Nat) : State :=
  { s with rxq := tableBytes nbits w ++ s.rxq, fault := false, fcause := 0 }

end Sys2Proof.Machine
end

