-- ==== Sys2Proof/Machine/Asm.lean ====
section
/-!
DEFINITION. The assembler of 30_encoding.md: one command per line (R70), the aliases and pseudo-instructions with their
expansions (R71). What R70 does not say of the text of a line is log entry 16; of the expansions, log entry 17.
-/

namespace Sys2Proof.Machine

/-- What a line can ask for (R70, R71). -/
inductive AsmCommand where
  | init
  | reset
  | update (bytes : List Byte)
  | finalize
  | sum
  | newContext
  | updateL (bytes : List Byte)
  | oneShot (bytes : List Byte)
  deriving DecidableEq, Repr

/-- A line of assembly. -/
inductive AsmLine where
  /-- nothing but white space and a comment -/
  | blank
  /-- a command -/
  | command (c : AsmCommand)
  /-- a line that R70 does not admit -/
  | malformed
  deriving DecidableEq, Repr

/-- Splits bytes into at most `fuel` pieces of 65535 bytes, the last one shorter. -/
def chunkLoop : (fuel : Nat) → List Byte → List (List Byte)
  | 0, _ => []
  | fuel + 1, bytes =>
    if bytes.length ≤ Config.maxPlen then [bytes]
    else bytes.take Config.maxPlen :: chunkLoop fuel (bytes.drop Config.maxPlen)

/-- c1, ..., ck of UPDATEL (R71): every piece has at most 65535 bytes and they join to the whole. -/
def chunks (bytes : List Byte) : List (List Byte) :=
  chunkLoop (bytes.length + 1) bytes

/-- The commands a line stands for (R71). -/
def expand (c : AsmCommand) : List Instr :=
  match c with
  | .init => [.init]
  | .reset => [.init]
  | .update bytes => [.update bytes]
  | .finalize => [.finalize]
  | .sum => [.finalize]
  | .newContext => [.init]
  | .updateL bytes => (chunks bytes).map .update
  | .oneShot bytes => .init :: (chunks bytes).map .update ++ [.finalize]

/-- The packets of a list of commands, in order. -/
def encodeAll (is : List Instr) : List Byte :=
  is.flatMap encode

/-- Space or tab. -/
def isBlankChar (c : Char) : Bool :=
  c = ' ' || c = '\t'

/-- Nothing but white space, then nothing or a comment (R70: `;` starts a comment). -/
def isLineEnd (cs : List Char) : Bool :=
  match cs.dropWhile isBlankChar with
  | [] => true
  | c :: _ => c = ';'

/-- The value of a hexadecimal digit. -/
def hexDigit (c : Char) : Option Nat :=
  if '0' ≤ c ∧ c ≤ '9' then some (c.toNat - '0'.toNat)
  else if 'a' ≤ c ∧ c ≤ 'f' then some (c.toNat - 'a'.toNat + 10)
  else if 'A' ≤ c ∧ c ≤ 'F' then some (c.toNat - 'A'.toNat + 10)
  else none

/-- The bytes of a hexadecimal string: two digits per byte, first byte first (R70). -/
def hexBytes : List Char → Option (List Byte)
  | [] => some []
  | [_] => none
  | hi :: lo :: cs =>
    match hexDigit hi, hexDigit lo, hexBytes cs with
    | some x, some y, some bs => some (BitVec.ofNat 8 (16 * x + y) :: bs)
    | _, _, _ => none

/-- The bytes of a quoted ASCII string: the character codes in order, no terminator (R70). -/
def asciiBytes : List Char → Option (List Byte)
  | [] => some []
  | c :: cs =>
    match asciiBytes cs with
    | some bs => if c.toNat < 128 then some (BitVec.ofNat 8 c.toNat :: bs) else none
    | none => none

/-- The quotation mark. -/
def quoteMark : Char := '\x22'

/-- The characters before the next quotation mark and those after it. -/
def splitQuote : List Char → Option (List Char × List Char)
  | [] => none
  | c :: cs =>
    if c = quoteMark then some ([], cs)
    else
      match splitQuote cs with
      | some (inside, after) => some (c :: inside, after)
      | none => none

/-- The operand of a line (R70): a quoted ASCII string, or a hexadecimal string marked by h; nothing may follow it but a
comment. -/
def asmOperand (cs : List Char) : Option (List Byte) :=
  match cs.dropWhile isBlankChar with
  | [] => none
  | c :: rest =>
    if c = quoteMark then
      match splitQuote rest with
      | some (inside, after) => if isLineEnd after then asciiBytes inside else none
      | none => none
    else if c = 'h' then
      match rest with
      | [] => none
      | q :: digits =>
        if q = quoteMark then
          match splitQuote digits with
          | some (inside, after) => if isLineEnd after then hexBytes inside else none
          | none => none
        else none
    else none

/-- A command without operand. -/
def asmPlain (c : AsmCommand) (rest : List Char) : AsmLine :=
  if isLineEnd rest then .command c else .malformed

/-- A command with an operand of at most `bound` bytes (R70), or of any length. -/
def asmWith (c : List Byte → AsmCommand) (bound : Option Nat) (rest : List Char) : AsmLine :=
  match asmOperand rest with
  | none => .malformed
  | some bytes =>
    match bound with
    | none => .command (c bytes)
    | some m => if bytes.length ≤ m then .command (c bytes) else .malformed

/-- A letter of a mnemonic. -/
def isMnemonicChar (c : Char) : Bool :=
  'A' ≤ c && c ≤ 'Z'

/-- Reads one line of assembly (R70, R71). -/
def asmLine (line : List Char) : AsmLine :=
  let cs := line.dropWhile isBlankChar
  let word := cs.takeWhile isMnemonicChar
  let rest := cs.dropWhile isMnemonicChar
  if isLineEnd cs then .blank
  else if word = ['I', 'N', 'I', 'T'] then asmPlain .init rest
  else if word = ['R', 'E', 'S', 'E', 'T'] then asmPlain .reset rest
  else if word = ['F', 'I', 'N', 'A', 'L', 'I', 'Z', 'E'] then asmPlain .finalize rest
  else if word = ['S', 'U', 'M'] then asmPlain .sum rest
  else if word = ['N', 'E', 'W', 'C', 'O', 'N', 'T', 'E', 'X', 'T'] then asmPlain .newContext rest
  else if word = ['U', 'P', 'D', 'A', 'T', 'E'] then asmWith .update (some Config.maxPlen) rest
  else if word = ['U', 'P', 'D', 'A', 'T', 'E', 'L'] then asmWith .updateL none rest
  else if word = ['O', 'N', 'E', 'S', 'H', 'O', 'T'] then asmWith .oneShot none rest
  else .malformed

/-- The packets of a text, a list of lines; none if a line is malformed. -/
def assemble : List (List Char) → Option (List Byte)
  | [] => some []
  | line :: lines =>
    match asmLine line, assemble lines with
    | .blank, some bs => some bs
    | .command c, some bs => some (encodeAll (expand c) ++ bs)
    | .malformed, _ => none
    | _, none => none

end Sys2Proof.Machine
end

