-- ==== Sys2Proof/Machine/Ports.lean ====
section
/-!
DEFINITION. What HOST does to the engine from outside (30_encoding.md R60, 70_reset_and_hazards.md R153), and one event of
an engine in its surroundings. HOST may do any of it between any two steps (R142; log entry 6).
-/

namespace Sys2Proof.Machine

/-- A byte arrives on CMD_IN: appended to RXQ, discarded while FAULT = 1 (10_state.md R32, 60_exceptions.md R125). -/
def State.receiveByte (b : Byte) (s : State) : State :=
  if s.fault then s else { s with rxq := s.rxq ++ [b] }

/-- Bytes arrive in order. -/
def State.receive (bs : List Byte) (s : State) : State :=
  bs.foldl (fun s' b => s'.receiveByte b) s

/-- HOST reads one byte of RSP_OUT, each byte once and in order; nothing happens when none is pending (20_memory.md R40,
R48; R153: "reading has no effect on the engine"). -/
def State.readResponse (s : State) : State :=
  { s with rspOut := s.rspOut.tail }

/-- What HOST can do (R60, R153). -/
inductive HostEvent where
  /-- sends a byte on CMD_IN -/
  | send (b : Byte)
  /-- takes a byte from RSP_OUT -/
  | read
  /-- asserts HW_RESET -/
  | hwReset
  deriving DecidableEq, Repr

/-- One thing that happens at an engine. -/
inductive Event where
  /-- the engine makes a step -/
  | engine
  /-- HOST acts on it -/
  | host (e : HostEvent)
  deriving DecidableEq, Repr

/-- The effect of HOST's act. -/
def onHost (e : HostEvent) (s : State) : State :=
  match e with
  | .send b => s.receiveByte b
  | .read => s.readResponse
  | .hwReset => s.hwReset

/-- The effect of one event; an inert engine keeps its state (60_exceptions.md R125). -/
def onEvent (e : Event) (s : State) : State :=
  match e with
  | .engine =>
    match step s with
    | .next t => t
    | .fault _ => s
    | .refused _ => s
  | .host h => onHost h s

/-- A history: the first event first. -/
def onEvents (es : List Event) (s : State) : State :=
  es.foldl (fun s' e => onEvent e s') s

/-- The bytes that HOST sends in a history, in order. -/
def sentBytes (es : List Event) : List Byte :=
  es.flatMap fun e =>
    match e with
    | .engine => []
    | .host (.send b) => [b]
    | .host .read => []
    | .host .hwReset => []

/-- The bytes that HOST reads in a history from state s, in order: the front of RSP_OUT at each read, if any is pending. -/
def readBytes : List Event → State → List Byte
  | [], _ => []
  | .engine :: es, s => readBytes es (onEvent .engine s)
  | .host (.send b) :: es, s => readBytes es (onEvent (.host (.send b)) s)
  | .host .read :: es, s => s.rspOut.take 1 ++ readBytes es (onEvent (.host .read) s)
  | .host .hwReset :: es, s => readBytes es (onEvent (.host .hwReset) s)

/-- The engine makes n steps with HOST silent. -/
def runSteps : (n : Nat) → State → State
  | 0, s => s
  | n + 1, s => runSteps n (onEvent .engine s)

/-- The run of R152 driven by the byte sequence C from state s: HOST sends C, then the engine makes steps until it can
make no more, a schedule that is the model's choice (log entry 6; every packet takes 4 bytes or more, so |C| + |RXQ| steps are enough). -/
def drive (C : List Byte) (s : State) : State :=
  runSteps (s.receive C).rxq.length (s.receive C)

end Sys2Proof.Machine
end

