-- ==== Sys2Proof/Machine/System.lean ====
section
/-!
DEFINITION. Several engines (60_exceptions.md R130): NUM_ENGINES independent copies of the state, which share only the
constants K and IV (10_state.md R37). NUM_ENGINES is an argument of the model (92_eei_decisions.md D22; log entry 12).
The free values of the scratch registers are not keyed by the engine (DESIGN CHOICE, log entry 19).
-/

namespace Sys2Proof.Machine

/-- The states of n engines. -/
abbrev System (n : Nat) := Vector State n

/-- Every engine at its own reset (R130). -/
def systemReset (n : Nat) : System n :=
  Vector.replicate n State.reset

/-- An event at engine k; the ports and the reset input are each engine's own (R130). -/
def onSystem {n : Nat} (k : Fin n) (e : Event) (y : System n) : System n :=
  y.set k (onEvent e y[k])

/-- A history of a system. -/
def onSystems {n : Nat} (es : List (Fin n × Event)) (y : System n) : System n :=
  es.foldl (fun y' e => onSystem e.1 e.2 y') y

end Sys2Proof.Machine
end

