-- ==== Sys2Proof/Safety.lean ====
section
/-!
DEFINITION. The terms claims are stated in: what a good state is (10_state.md R33), how a run can end (70_reset_and_hazards.md
R152), what a session has absorbed (R33 I-c), and the reference the engine is held to: COMPRESS and SHA-384 of a whole
message, written without the engine's registers, buffer or counter.
-/

namespace Sys2Proof.Machine

/-- (I-a), (I-b), (I-d) of R33, with what R26 and R125 say of FAULT, FCAUSE and RXQ. -/
def StateInv (s : State) : Prop :=
  s.buf.length ≤ 127 ∧
  s.buf.length = s.len.toNat % 128 ∧
  (s.phase = .fresh → s.H = iv ∧ s.buf = [] ∧ s.len = 0) ∧
  (s.fault = false → s.fcause = 0) ∧
  (s.fault = true → (s.fcause = 1 ∨ s.fcause = 2) ∧ s.rxq = [])

/-- A complete run (R152): FAULT = 0 and RXQ is empty. -/
def RunComplete (s : State) : Prop :=
  s.fault = false ∧ s.rxq = []

/-- A faulted run (R152 a): never a successful end. -/
def RunFaulted (s : State) : Prop :=
  s.fault = true

/-- A waiting run (R152 b): FAULT = 0 and RXQ holds a non-empty piece of a packet that is not complete. -/
def RunWaiting (s : State) : Prop :=
  s.fault = false ∧ s.rxq ≠ [] ∧ decode s.rxq = .wait

/-- Two states with the same context: H, BUF, LEN and PHASE (70_reset_and_hazards.md R141, 41_streaming_context.md R112). -/
def SameContext (s t : State) : Prop :=
  s.H = t.H ∧ s.buf = t.buf ∧ s.len = t.len ∧ s.phase = t.phase

/-- Two states that no later response can tell apart: they agree on everything but the scratch registers, the model's
counter and the bytes already on RSP_OUT (10_state.md R35). -/
def SameVisible (s t : State) : Prop :=
  SameContext s t ∧ s.fault = t.fault ∧ s.fcause = t.fcause ∧ s.rxq = t.rxq

/-- Folds a compression function over the first n 128-byte blocks of P (R33 I-c, R104). -/
def foldBlocks (f : Hash → List Byte → Hash) (S : Hash) : (n : Nat) → List Byte → Hash
  | 0, _ => S
  | n + 1, P => foldBlocks f (f S (P.take 128)) n (P.drop 128)

/-- The session has absorbed the byte string M (R33 I-c): H folds the whole blocks of M from IV, BUF holds the rest, and
LEN counts M modulo 2^128. -/
def Absorbed (M : List Byte) (s : State) : Prop :=
  s.H = foldBlocks compress iv (M.length / 128) M ∧
  s.buf = M.drop (128 * (M.length / 128)) ∧
  s.len.toNat = M.length % 2 ^ 128

/-- The j-th big-endian word of a block, read off its eight bytes (20_memory.md R41). -/
def refWord (B : List Byte) (j : Nat) : Word :=
  ((B.drop (8 * j)).take 8).foldl (fun v b => v * 256 + BitVec.ofNat 64 b.toNat) 0

/-- The first 16 + n words of the message schedule as a growing list (40_compression_core.md R91). -/
def refSchedule (B : List Byte) : (n : Nat) → List Word
  | 0 => (List.range 16).map (refWord B)
  | n + 1 =>
    let w := refSchedule B n
    w ++ [smallSigma1 (w.getD (14 + n) 0) + w.getD (9 + n) 0 + smallSigma0 (w.getD (1 + n) 0) + w.getD n 0]

/-- The eight working variables as a plain tuple. -/
structure RefVars where
  a : Word
  b : Word
  c : Word
  d : Word
  e : Word
  f : Word
  g : Word
  h : Word
  deriving DecidableEq, Repr

/-- One round on the eight variables with its constant and its schedule word (R93). -/
def refRound (v : RefVars) (kw : Word × Word) : RefVars :=
  let t1 := v.h + bigSigma1 v.e + ch v.e v.f v.g + kw.1 + kw.2
  let t2 := bigSigma0 v.a + maj v.a v.b v.c
  ⟨t1 + t2, v.a, v.b, v.c, v.d + t1, v.e, v.f, v.g⟩

/-- COMPRESS (R95) without registers: parse, expand, fold the rounds over the pairs (K[t], W[t]), add back. -/
def refCompress (S : Hash) (B : List Byte) : Hash :=
  let v := (kRom.zip (refSchedule B 64)).foldl refRound ⟨S[0], S[1], S[2], S[3], S[4], S[5], S[6], S[7]⟩
  #v[S[0] + v.a, S[1] + v.b, S[2] + v.c, S[3] + v.d, S[4] + v.e, S[5] + v.f, S[6] + v.g, S[7] + v.h]

/-- A whole message padded at once (41_streaming_context.md R105): marker, zeros, bit length in 16 bytes. -/
def refPad (M : List Byte) : List Byte :=
  M ++ 0x80 :: List.replicate ((239 - M.length % 128) % 128) 0x00 ++ beBytes 16 (8 * M.length)

/-- SHA-384 of a whole message by the algorithm of 40_compression_core.md and R105, R107: what ONESHOT must answer (R114)
for messages of fewer than 2^125 bytes (R115). -/
def sha384 (M : List Byte) : List Byte :=
  serialize (foldBlocks refCompress iv ((refPad M).length / 128) (refPad M))

/-- The response of a command executed in state s (30_encoding.md R68): what it appends to RSP_OUT, if it completes. -/
def responseOf (i : Instr) (s : State) : Option (List Byte) :=
  match exec i s with
  | .next t => some (t.rspOut.drop s.rspOut.length)
  | .fault _ => none
  | .refused _ => none

/-- A list of commands executed one after the other, each completing; none if one does not. -/
def execAll : List Instr → State → Option State
  | [], s => some s
  | i :: is, s =>
    match exec i s with
    | .next t => execAll is t
    | .fault _ => none
    | .refused _ => none

end Sys2Proof.Machine
end

