-- ==== Sys2Proof/Certificates/Slice0/Obligations.lean ====
section
/-!
DEFINITION. The statements for the provers. Each docstring says which rule of spec/ it formalises or rests on.
-/

open Sys2Proof Sys2Proof.Machine

/-! ## The word functions of the CORE -/

/-- 40_compression_core.md R81 and R82: the rotate's formula, where every bit goes, and the logical shift, with the rules'
examples. -/
def Obligations.RotateAndShiftMoveBits : Prop :=
  (∀ (x : Word) (n : Nat), 1 ≤ n → n ≤ 63 →
    (rotr x n).toNat = ((x.toNat >>> n) ||| (x.toNat <<< (64 - n))) % 2 ^ 64 ∧
    ∀ i < 64, (rotr x n).getLsbD i = x.getLsbD ((i + n) % 64)) ∧
  (∀ (x : Word) (n : Nat), (shr x n).toNat = x.toNat / 2 ^ n) ∧
  rotr 0x0000000000000001 1 = 0x8000000000000000 ∧ rotr 0x0000000000000001 61 = 0x0000000000000008 ∧
  rotr 0x0123456789abcdef 8 = 0xef0123456789abcd ∧ shr 0xffffffffffffffff 7 = 0x01ffffffffffffff ∧
  shr 0x0000000000000001 6 = 0 ∧ shr 0x8000000000000000 7 = 0x0100000000000000

/-- R84 and R85: Ch selects by the bits of e and Maj takes the value of at least two bits, with the corner cases and
examples of the rules. -/
def Obligations.ChooseAndMajoritySelectBits : Prop :=
  (∀ (e f g : Word) (i : Nat), i < 64 →
    (ch e f g).getLsbD i = if e.getLsbD i then f.getLsbD i else g.getLsbD i) ∧
  (∀ f g : Word, ch 0 f g = g ∧ ch 0xffffffffffffffff f g = f) ∧ (∀ e x : Word, ch e x x = x) ∧
  ch 0xff00ff00ff00ff00 0x0123456789abcdef 0xfedcba9876543210 = 0x01dc45988954cd10 ∧
  (∀ (a b c : Word) (i : Nat), i < 64 →
    (maj a b c).getLsbD i =
      decide (2 ≤ (a.getLsbD i).toNat + (b.getLsbD i).toNat + (c.getLsbD i).toNat)) ∧
  (∀ x y : Word, maj x x y = x) ∧ (∀ b c : Word, maj 0 b c = b &&& c ∧ maj 0xffffffffffffffff b c = b ||| c) ∧
  maj 0xffffffffffffffff 0x1111111111111111 0x2222222222222222 = 0x3333333333333333 ∧
  maj 0xff00ff00ff00ff00 0x0123456789abcdef 0xfedcba9876543210 = 0xff00ff00ff00ff00

/-- R86 to R89: every bit of the four sigma functions; the third term of the small ones is a shift, so it brings in no
bit from beyond bit 63. With the rules' corner cases and examples. -/
def Obligations.SigmaFunctionsByBit : Prop :=
  (∀ (x : Word) (i : Nat), i < 64 →
    (bigSigma0 x).getLsbD i =
      (x.getLsbD ((i + 28) % 64) ^^ x.getLsbD ((i + 34) % 64) ^^ x.getLsbD ((i + 39) % 64)) ∧
    (bigSigma1 x).getLsbD i =
      (x.getLsbD ((i + 14) % 64) ^^ x.getLsbD ((i + 18) % 64) ^^ x.getLsbD ((i + 41) % 64)) ∧
    (smallSigma0 x).getLsbD i =
      (x.getLsbD ((i + 1) % 64) ^^ x.getLsbD ((i + 8) % 64) ^^ x.getLsbD (i + 7)) ∧
    (smallSigma1 x).getLsbD i =
      (x.getLsbD ((i + 19) % 64) ^^ x.getLsbD ((i + 61) % 64) ^^ x.getLsbD (i + 6))) ∧
  bigSigma0 0 = 0 ∧ bigSigma1 0 = 0 ∧ smallSigma0 0 = 0 ∧ smallSigma1 0 = 0 ∧
  bigSigma0 0xffffffffffffffff = 0xffffffffffffffff ∧ bigSigma1 0xffffffffffffffff = 0xffffffffffffffff ∧
  smallSigma0 0xffffffffffffffff = 0x01ffffffffffffff ∧ smallSigma1 0xffffffffffffffff = 0x03ffffffffffffff ∧
  bigSigma0 0x0000000000000001 = 0x0000001042000000 ∧ bigSigma0 0xcbbb9d5dc1059ed8 = 0xdb9a810738c045b1 ∧
  bigSigma1 0x0000000000000001 = 0x0004400000800000 ∧ bigSigma1 0x67332667ffc00b31 = 0x1df62505c8b59963 ∧
  smallSigma0 0x0000000000000001 = 0x8100000000000000 ∧ smallSigma0 0x0123456789abcdef = 0x6f92c77c6c4f1aa1 ∧
  smallSigma1 0x0000000000000001 = 0x0000200000000008 ∧ smallSigma1 0x6162638000000000 = 0x0a9699a24c700003

/-! ## The steps of a compression -/

/-- R90 and 20_memory.md R41: PARSE loads W[0..15] with the block's big-endian words and touches no other register. -/
def Obligations.ParseLoadsBigEndianWords : Prop :=
  ∀ (B : List Byte) (x : Scratch), B.length = 128 →
    (∀ j < 16, (readW (parseBlock B x) j).toNat =
      (B.getD (8 * j) 0).toNat * 2 ^ 56 + (B.getD (8 * j + 1) 0).toNat * 2 ^ 48 +
      (B.getD (8 * j + 2) 0).toNat * 2 ^ 40 + (B.getD (8 * j + 3) 0).toNat * 2 ^ 32 +
      (B.getD (8 * j + 4) 0).toNat * 2 ^ 24 + (B.getD (8 * j + 5) 0).toNat * 2 ^ 16 +
      (B.getD (8 * j + 6) 0).toNat * 2 ^ 8 + (B.getD (8 * j + 7) 0).toNat) ∧
    (∀ t, 16 ≤ t → readW (parseBlock B x) t = readW x t) ∧
    parseBlock B x = { x with w := (parseBlock B x).w }

/-- R91: SCHEDULE writes W[16..79] by its recurrence from the words below, leaves W[0..15] and every other register, and
makes zeros of zeros. -/
def Obligations.ScheduleFollowsRecurrence : Prop :=
  ∀ x : Scratch,
    (∀ t, 16 ≤ t → t ≤ 79 →
      readW (schedule x) t =
        smallSigma1 (readW (schedule x) (t - 2)) + readW (schedule x) (t - 7) +
        smallSigma0 (readW (schedule x) (t - 15)) + readW (schedule x) (t - 16)) ∧
    (∀ j < 16, readW (schedule x) j = readW x j) ∧
    schedule x = { x with w := (schedule x).w } ∧
    ((∀ j < 16, readW x j = 0) → ∀ t < 80, readW (schedule x) t = 0)

/-- R95 with R90 to R94: COMPRESS on the scratch registers, whatever they held before, is the compression function
written without registers (Safety.lean's refCompress). The constants kRom and the word functions stand on both sides: they
have statements of their own (RoundConstantsAreTheTable, RotateAndShiftMoveBits, ChooseAndMajoritySelectBits,
SigmaFunctionsByBit). -/
def Obligations.CompressEqualsReference : Prop :=
  ∀ (x : Scratch) (S : Hash) (B : List Byte), B.length = 128 → compressFrom x S B = refCompress S B

/-- 10_state.md R27: what round t reads as K[t] is the word of the rule's table, for t = 0, ..., 79, a row of the table to
a line. -/
def Obligations.RoundConstantsAreTheTable : Prop :=
  (List.range 80).map kAt =
    [0x428a2f98d728ae22, 0x7137449123ef65cd, 0xb5c0fbcfec4d3b2f, 0xe9b5dba58189dbbc] ++
    [0x3956c25bf348b538, 0x59f111f1b605d019, 0x923f82a4af194f9b, 0xab1c5ed5da6d8118] ++
    [0xd807aa98a3030242, 0x12835b0145706fbe, 0x243185be4ee4b28c, 0x550c7dc3d5ffb4e2] ++
    [0x72be5d74f27b896f, 0x80deb1fe3b1696b1, 0x9bdc06a725c71235, 0xc19bf174cf692694] ++
    [0xe49b69c19ef14ad2, 0xefbe4786384f25e3, 0x0fc19dc68b8cd5b5, 0x240ca1cc77ac9c65] ++
    [0x2de92c6f592b0275, 0x4a7484aa6ea6e483, 0x5cb0a9dcbd41fbd4, 0x76f988da831153b5] ++
    [0x983e5152ee66dfab, 0xa831c66d2db43210, 0xb00327c898fb213f, 0xbf597fc7beef0ee4] ++
    [0xc6e00bf33da88fc2, 0xd5a79147930aa725, 0x06ca6351e003826f, 0x142929670a0e6e70] ++
    [0x27b70a8546d22ffc, 0x2e1b21385c26c926, 0x4d2c6dfc5ac42aed, 0x53380d139d95b3df] ++
    [0x650a73548baf63de, 0x766a0abb3c77b2a8, 0x81c2c92e47edaee6, 0x92722c851482353b] ++
    [0xa2bfe8a14cf10364, 0xa81a664bbc423001, 0xc24b8b70d0f89791, 0xc76c51a30654be30] ++
    [0xd192e819d6ef5218, 0xd69906245565a910, 0xf40e35855771202a, 0x106aa07032bbd1b8] ++
    [0x19a4c116b8d2d0c8, 0x1e376c085141ab53, 0x2748774cdf8eeb99, 0x34b0bcb5e19b48a8] ++
    [0x391c0cb3c5c95a63, 0x4ed8aa4ae3418acb, 0x5b9cca4f7763e373, 0x682e6ff3d6b2b8a3] ++
    [0x748f82ee5defb2fc, 0x78a5636f43172f60, 0x84c87814a1f0ab72, 0x8cc702081a6439ec] ++
    [0x90befffa23631e28, 0xa4506cebde82bde9, 0xbef9a3f7b2c67915, 0xc67178f2e372532b] ++
    [0xca273eceea26619c, 0xd186b8c721c0c207, 0xeada7dd6cde0eb1e, 0xf57d4f7fee6ed178] ++
    [0x06f067aa72176fba, 0x0a637dc5a2c898a6, 0x113f9804bef90dae, 0x1b710b35131c471b] ++
    [0x28db77f523047d84, 0x32caab7b40c72493, 0x3c9ebe0a15c9bebc, 0x431d67c49c100d4c] ++
    [0x4cc5d4becb3e42b6, 0x597f299cfc657e2a, 0x5fcb6fab3ad6faec, 0x6c44198c4a475817]

/-! ## Packets -/

/-- 30_encoding.md R61 to R65: the decoder reads back every well-formed command from its packet, whatever follows. -/
def Obligations.DecodeReadsEncodedPacket : Prop :=
  ∀ (i : Instr) (rest : List Byte), i.wf = true → decode (encode i ++ rest) = .packet i rest

/-- R61 to R67: the only bytes the decoder reads as a command are that command's own packet. -/
def Obligations.DecodedPacketIsItsEncoding : Prop :=
  ∀ (q rest : List Byte) (i : Instr), decode q = .packet i rest → i.wf = true ∧ q = encode i ++ rest

/-- R63: match and mask select the row of a header, and every OPC value but 0x01, 0x02 and 0x03 is illegal. -/
def Obligations.HeaderSelectsRowByMatchAndMask : Prop :=
  ∀ hdr : BitVec 32,
    (classify (headerFields hdr) = .init ↔ hdr &&& 0xFFFFFFFF = 0x01000000) ∧
    (∀ n : Nat, classify (headerFields hdr) = .update n ↔
      hdr &&& 0xFFFF0000 = 0x02000000 ∧ n = hdr.toNat % 65536) ∧
    (classify (headerFields hdr) = .finalize ↔ hdr &&& 0xFFFFFFFF = 0x03000000) ∧
    (classify (headerFields hdr) = .illegal .illegalOpcode ↔
      hdr.toNat / 2 ^ 24 = 0x00 ∨ 0x04 ≤ hdr.toNat / 2 ^ 24)

/-- R67: the whole decoder, in its order, over the values of the header bytes. -/
def Obligations.DecoderClassifiesInOrder : Prop :=
  (∀ q : List Byte, q.length < 4 → decode q = .wait) ∧
  ∀ (b0 b1 b2 b3 : Byte) (rest : List Byte),
    decode (b0 :: b1 :: b2 :: b3 :: rest) =
      if b0.toNat ≠ 1 ∧ b0.toNat ≠ 2 ∧ b0.toNat ≠ 3 then .illegal .illegalOpcode rest
      else if b1.toNat ≠ 0 then .illegal .reservedNonzero rest
      else if (b0.toNat = 1 ∨ b0.toNat = 3) ∧ b2.toNat * 256 + b3.toNat ≠ 0 then .illegal .reservedNonzero rest
      else if b0.toNat = 1 then .packet .init rest
      else if b0.toNat = 3 then .packet .finalize rest
      else if rest.length < b2.toNat * 256 + b3.toNat then .wait
      else .packet (.update (rest.take (b2.toNat * 256 + b3.toNat))) (rest.drop (b2.toNat * 256 + b3.toNat))

/-- R64: no part of a command's packet short of the whole is decoded. -/
def Obligations.PartOfPacketWaits : Prop :=
  ∀ (i : Instr) (k : Nat), i.wf = true → k < (encode i).length → decode ((encode i).take k) = .wait

/-- R72 and 95_test_vectors.md T9: a few packets written out byte by byte. -/
def Obligations.WrittenOutPacketsDecode : Prop :=
  decode [0x01, 0x00, 0x00, 0x00] = .packet .init [] ∧
  decode [0x02, 0x00, 0x00, 0x03, 0x61, 0x62, 0x63] = .packet (.update [0x61, 0x62, 0x63]) [] ∧
  decode [0x03, 0x00, 0x00, 0x00] = .packet .finalize [] ∧
  decode [0x80, 0x01, 0x00, 0x00] = .illegal .illegalOpcode [] ∧
  decode [0x03, 0x00, 0x01, 0x00] = .illegal .reservedNonzero []

/-! ## The commands -/

/-- 41_streaming_context.md R101: INIT's packet, its effect and all it leaves unchanged, and that it changes nothing in a
good Fresh state. -/
def Obligations.InitReturnsContextToFresh : Prop :=
  encode .init = [0x01, 0x00, 0x00, 0x00] ∧
  (∀ s : State, exec .init s =
    .next { s with H := iv, buf := [], len := 0, phase := .fresh, rspOut := s.rspOut ++ [0x00] }) ∧
  (∀ s : State, StateInv s → s.phase = .fresh → exec .init s = .next { s with rspOut := s.rspOut ++ [0x00] })

/-- R103: an UPDATE with an empty payload changes no state and answers 00. -/
def Obligations.EmptyUpdateChangesNothing : Prop :=
  encode (.update []) = [0x02, 0x00, 0x00, 0x00] ∧
  ∀ s : State, exec (.update []) s = .next { s with rspOut := s.rspOut ++ [0x00] }

/-- R102 and R104: UPDATE compresses every full block of BUF ++ D in order and keeps the rest in BUF, adds the payload
length to LEN modulo 2^128, sets PHASE when the payload is not empty, answers 00, and leaves every other register. It
invokes the CORE floor((N + n) / 128) times. Its packet is 02 00, the length high byte first, and the payload. That the
model's own counter shows the number of invocations, and that the scratch registers (x) change only when there is one, is
the model's choice (DESIGN CHOICE, log entry 2). -/
def Obligations.UpdateAbsorbsPayload : Prop :=
  ∀ (D : List Byte) (s : State), s.buf.length ≤ 127 →
    encode (.update D) =
      [0x02, 0x00, BitVec.ofNat 8 (D.length / 256), BitVec.ofNat 8 (D.length % 256)] ++ D ∧
    ∃ x : Scratch,
      exec (.update D) s = .next
        { s with
          H := foldBlocks compress s.H ((s.buf.length + D.length) / 128) (s.buf ++ D)
          buf := (s.buf ++ D).drop (128 * ((s.buf.length + D.length) / 128))
          len := BitVec.ofNat 128 ((s.len.toNat + D.length) % 2 ^ 128)
          phase := if D = [] then s.phase else .accum
          rspOut := s.rspOut ++ [0x00]
          scratch := x
          freeCount := s.freeCount + (s.buf.length + D.length) / 128 } ∧
      ((s.buf.length + D.length) / 128 = 0 → x = s.scratch)

/-- R108 and R106 with the block layout of 20_memory.md R49: FINALIZE compresses one final block when N ≤ 111 and two
otherwise, answers 00 and the digest of the last state, returns the context to Fresh and leaves every register but the
scratch registers (x). That the model's own counter shows how often it invokes the CORE is the model's choice (DESIGN
CHOICE, log entry 2). -/
def Obligations.FinalizeAnswersDigestAndResets : Prop :=
  encode .finalize = [0x03, 0x00, 0x00, 0x00] ∧
  ∀ s : State, s.buf.length ≤ 127 →
    ∃ x : Scratch,
      exec .finalize s = .next
        { s with
          H := iv, buf := [], len := 0, phase := .fresh
          rspOut := s.rspOut ++ 0x00 :: serialize
            (if s.buf.length ≤ 111 then
              compress s.H (s.buf ++ 0x80 :: List.replicate (111 - s.buf.length) 0x00 ++
                beBytes 16 (s.len.toNat * 8 % 2 ^ 128))
            else
              compress (compress s.H (s.buf ++ 0x80 :: List.replicate (127 - s.buf.length) 0x00))
                (List.replicate 112 0x00 ++ beBytes 16 (s.len.toNat * 8 % 2 ^ 128)))
          scratch := x
          freeCount := s.freeCount + if s.buf.length ≤ 111 then 1 else 2 }

/-- R105: PAD appends the marker, z zeros and the 16-byte length field, and fills one block when N ≤ 111, else two. -/
def Obligations.PadFillsWholeBlocks : Prop :=
  ∀ (B : List Byte) (len : U128), B.length ≤ 127 →
    padZeros B.length = (if B.length ≤ 111 then 111 - B.length else 239 - B.length) ∧
    (B.length + 1 + padZeros B.length) % 128 = 112 ∧
    pad B len = B ++ [0x80] ++ List.replicate (padZeros B.length) 0x00 ++ beBytes 16 (len.toNat * 8 % 2 ^ 128) ∧
    (pad B len).length = (if B.length ≤ 111 then 128 else 256) ∧
    (pad B len)[B.length]? = some 0x80 ∧
    (len.toNat < 2 ^ 125 → len.toNat * 8 % 2 ^ 128 = len.toNat * 8)

/-- 20_memory.md R42: the last 16 bytes of the last padded block are the bit length, most significant byte at offset 112,
so the CORE sees its high half as W[14] and its low half as W[15]. -/
def Obligations.LengthFieldIsBigEndian : Prop :=
  ∀ (B : List Byte) (len : U128) (x : Scratch), B.length ≤ 127 →
    (∀ k < 16, ((pad B len).drop ((pad B len).length - 128))[112 + k]? =
      some (BitVec.ofNat 8 ((len.toNat * 8 % 2 ^ 128) / 2 ^ (8 * (15 - k))))) ∧
    (readW (parseBlock ((pad B len).drop ((pad B len).length - 128)) x) 14).toNat =
      (len.toNat * 8 % 2 ^ 128) / 2 ^ 64 ∧
    (readW (parseBlock ((pad B len).drop ((pad B len).length - 128)) x) 15).toNat =
      (len.toNat * 8 % 2 ^ 128) % 2 ^ 64

/-- R43 and R107: digest byte 8i + k is bits [63-8k : 56-8k] of H[i], for the first six words. -/
def Obligations.DigestBytesAreBigEndian : Prop :=
  ∀ H : Hash, (serialize H).length = 48 ∧
    ∀ (i k : Nat) (hi : i < 6), k < 8 → (serialize H)[8 * i + k]? = some (H[i].extractLsb' (56 - 8 * k) 8)

/-- R117: UPDATE's addition to LEN carries out of the low 64 bits into the high 64 bits. -/
def Obligations.LengthCarriesIntoHighHalf : Prop :=
  ∀ (D : List Byte) (s t : State), D.length ≤ 65535 → exec (.update D) s = .next t →
    t.len.toNat % 2 ^ 64 = (s.len.toNat % 2 ^ 64 + D.length) % 2 ^ 64 ∧
    t.len.toNat / 2 ^ 64 =
      (s.len.toNat / 2 ^ 64 + if 2 ^ 64 ≤ s.len.toNat % 2 ^ 64 + D.length then 1 else 0) % 2 ^ 64

/-- 60_exceptions.md R120 and 30_encoding.md R68, R69: every command completes in every state and answers 00, followed by
48 bytes for FINALIZE and nothing otherwise. -/
def Obligations.EveryCommandCompletes : Prop :=
  ∀ (i : Instr) (s : State), ∃ (t : State) (digest : List Byte),
    exec i s = .next t ∧ t.rspOut = s.rspOut ++ 0x00 :: digest ∧
    digest.length = if i = .finalize then 48 else 0

/-- 10_state.md R26, R32, R38: no command touches FAULT, FCAUSE or the bytes of later packets, and none takes back a byte
of RSP_OUT. -/
def Obligations.CommandsKeepFaultAndQueue : Prop :=
  ∀ (i : Instr) (s t : State), exec i s = .next t →
    t.fault = s.fault ∧ t.fcause = s.fcause ∧ t.rxq = s.rxq ∧ s.rspOut = t.rspOut.take s.rspOut.length

/-- R110: the transition table of PHASE, every command accepted in every state; where the table notes no change at all,
the context is kept. -/
def Obligations.PhaseFollowsTransitionTable : Prop :=
  ∀ s : State,
    (∃ t, exec .init s = .next t ∧ t.phase = .fresh ∧ (StateInv s → s.phase = .fresh → SameContext t s)) ∧
    (∃ t, exec (.update []) s = .next t ∧ t.phase = s.phase ∧ SameContext t s) ∧
    (∀ (d : Byte) (D : List Byte), ∃ t, exec (.update (d :: D)) s = .next t ∧ t.phase = .accum) ∧
    (∃ t, exec .finalize s = .next t ∧ t.phase = .fresh) ∧
    s.hwReset.phase = .fresh

/-! ## Messages and digests -/

/-- R111: however a byte string is cut into UPDATEs, the context after them is the same and so is the response of the
FINALIZE that follows; PHASE ends as ACCUM unless the string is empty. -/
def Obligations.ChunkingDoesNotMatter : Prop :=
  ∀ (cs ds : List (List Byte)) (s : State), cs.flatten = ds.flatten →
    ∃ u v : State, execAll (cs.map .update) s = some u ∧ execAll (ds.map .update) s = some v ∧
      SameContext u v ∧ responseOf .finalize u = responseOf .finalize v ∧
      u.phase = if cs.flatten = [] then s.phase else .accum

/-- 10_state.md R33 (I-c): INIT, FINALIZE and hardware reset begin a session that has absorbed nothing, and UPDATE D turns
a session that has absorbed M into one that has absorbed M ++ D. -/
def Obligations.SessionTracksItsMessage : Prop :=
  (∀ s t : State, exec .init s = .next t → Absorbed [] t) ∧
  (∀ s t : State, exec .finalize s = .next t → Absorbed [] t) ∧
  (∀ s : State, Absorbed [] s.hwReset) ∧
  (∀ (M D : List Byte) (s t : State), Absorbed M s → exec (.update D) s = .next t → Absorbed (M ++ D) t)

/-- R113 and R114 under the premise of R115: FINALIZE answers 00 and the SHA-384 digest of the message the session has
absorbed, as the reference of Safety.lean computes it from the whole message. The constants IV and kRom stand on both
sides: HardwareResetGivesResetValues, RoundConstantsAreTheTable and PinnedDigests hold them. -/
def Obligations.FinalizeAnswersSha384 : Prop :=
  ∀ (M : List Byte) (s : State), Absorbed M s → M.length < 2 ^ 125 →
    responseOf .finalize s = some (0x00 :: sha384 M)

/-- R114: the reference's digests of the empty message and of abc are the 48 bytes that the rule pins
(95_test_vectors.md T1 and T2). -/
def Obligations.PinnedDigests : Prop :=
  sha384 [] =
      [0x38, 0xb0, 0x60, 0xa7, 0x51, 0xac, 0x96, 0x38, 0x4c, 0xd9, 0x32, 0x7e, 0xb1, 0xb1, 0xe3, 0x6a] ++
      [0x21, 0xfd, 0xb7, 0x11, 0x14, 0xbe, 0x07, 0x43, 0x4c, 0x0c, 0xc7, 0xbf, 0x63, 0xf6, 0xe1, 0xda] ++
      [0x27, 0x4e, 0xde, 0xbf, 0xe7, 0x6f, 0x65, 0xfb, 0xd5, 0x1a, 0xd2, 0xf1, 0x48, 0x98, 0xb9, 0x5b] ∧
  sha384 [0x61, 0x62, 0x63] =
      [0xcb, 0x00, 0x75, 0x3f, 0x45, 0xa3, 0x5e, 0x8b, 0xb5, 0xa0, 0x3d, 0x69, 0x9a, 0xc6, 0x50, 0x07] ++
      [0x27, 0x2c, 0x32, 0xab, 0x0e, 0xde, 0xd1, 0x63, 0x1a, 0x8b, 0x60, 0x5a, 0x43, 0xff, 0x5b, 0xed] ++
      [0x80, 0x86, 0x07, 0x2b, 0xa1, 0xe7, 0xcc, 0x23, 0x58, 0xba, 0xec, 0xa1, 0x34, 0xc8, 0x25, 0xa7]

/-- R114 and R71: the packets of ONESHOT, sent to an engine that is between packets, run to a complete run that answers 00
for INIT, 00 for each UPDATE, and 00 with the SHA-384 digest of the message, and leave the context Fresh. How many
UPDATEs there are is the model's choice of the cut (DESIGN CHOICE, log entry 17), and drive's schedule, all bytes sent
first, is the model's too (log entry 6; ScheduleDoesNotMatter states that another one gives the same). -/
def Obligations.OneShotAnswersSha384 : Prop :=
  ∀ (M : List Byte) (s : State), M.length < 2 ^ 125 → RunComplete s →
    RunComplete (drive (encodeAll (expand (.oneShot M))) s) ∧
    SameContext (drive (encodeAll (expand (.oneShot M))) s) State.reset ∧
    (drive (encodeAll (expand (.oneShot M))) s).rspOut =
      s.rspOut ++ List.replicate (1 + (chunks M).length) 0x00 ++ 0x00 :: sha384 M

/-- R48, R108, R145: a FINALIZE right after a FINALIZE answers the digest of the empty message. -/
def Obligations.SecondFinalizeAnswersEmptyDigest : Prop :=
  ∀ s t : State, exec .finalize s = .next t → responseOf .finalize t = some (0x00 :: sha384 [])

/-- R112: after FINALIZE the context is that of a freshly reset engine, and every later list of commands gets the
responses a freshly reset engine gives. -/
def Obligations.ReuseAfterFinalizeIsFresh : Prop :=
  ∀ (s t : State) (is : List Instr), exec .finalize s = .next t →
    SameContext t State.reset ∧
    ∃ u v : State, execAll is t = some u ∧ execAll is State.reset = some v ∧
      u.rspOut = t.rspOut ++ v.rspOut

/-- 10_state.md R35, 41_streaming_context.md R113, 20_memory.md R51: two engines that agree on H, BUF, LEN, PHASE, FAULT,
FCAUSE and RXQ answer alike and stay in agreement; the scratch registers, the free values and earlier responses have no
effect. -/
def Obligations.HiddenStateHasNoEffect : Prop :=
  ∀ s t : State, SameVisible s t →
    (∀ s', step s = .next s' → ∃ (t' : State) (r : List Byte), step t = .next t' ∧ SameVisible s' t' ∧
      s'.rspOut = s.rspOut ++ r ∧ t'.rspOut = t.rspOut ++ r) ∧
    (∀ f, step s = .fault f → step t = .fault f)

/-! ## The step, the faults and the host -/

/-- R100 and 10_state.md R32: when the bytes at the front of RXQ are a command's packet and FAULT = 0, the step removes
them and is that command's execution. -/
def Obligations.StepRunsDecodedCommand : Prop :=
  ∀ (s : State) (i : Instr) (rest : List Byte),
    s.fault = false → i.wf = true → s.rxq = encode i ++ rest → step s = exec i { s with rxq := rest }

/-- 60_exceptions.md R132: with an incomplete packet in RXQ the engine waits, its state held. That a waiting engine's step
answers its own state is the model's choice (log entry 4). -/
def Obligations.IncompletePacketHoldsState : Prop :=
  ∀ (s : State) (i : Instr) (k : Nat), s.fault = false → i.wf = true → k < (encode i).length →
    s.rxq = (encode i).take k → step s = .next s

/-- R122 to R124: which cause a header raises, what the fault records and answers, that RXQ is emptied and all else is
kept, and that no legal header's step raises it. That the step on a legal UPDATE header whose payload is not complete is a
next state at all is the model's choice (DESIGN CHOICE, log entry 4). -/
def Obligations.IllegalHeaderTakesDecodeFault : Prop :=
  ∀ (s : State) (b0 b1 b2 b3 : Byte) (rest : List Byte),
    s.fault = false → s.rxq = b0 :: b1 :: b2 :: b3 :: rest →
    (b0.toNat = 0 ∨ 4 ≤ b0.toNat →
      step s = .next { s with rxq := [], fault := true, fcause := 1, rspOut := s.rspOut ++ [0x01] }) ∧
    (1 ≤ b0.toNat ∧ b0.toNat ≤ 3 ∧ (b1.toNat ≠ 0 ∨ (b0.toNat ≠ 2 ∧ b2.toNat * 256 + b3.toNat ≠ 0)) →
      step s = .next { s with rxq := [], fault := true, fcause := 2, rspOut := s.rspOut ++ [0x02] }) ∧
    (1 ≤ b0.toNat ∧ b0.toNat ≤ 3 ∧ b1.toNat = 0 ∧ (b0.toNat = 2 ∨ b2.toNat * 256 + b3.toNat = 0) →
      ∃ t, step s = .next t ∧ t.fault = false ∧ t.fcause = s.fcause)

/-- R124: the fault is precise. Every packet before the illegal header has executed and answered, the illegal one changes
only FAULT, FCAUSE and RSP_OUT, and nothing after it executes. The schedule of drive, all bytes sent first, is the model's
choice (DESIGN CHOICE, log entry 6; ScheduleDoesNotMatter). -/
def Obligations.DecodeFaultIsPrecise : Prop :=
  ∀ (is : List Instr) (s : State) (b0 b1 b2 b3 : Byte) (later : List Byte) (c : Cause),
    RunComplete s → (∀ i ∈ is, i.wf = true) → decode [b0, b1, b2, b3] = .illegal c [] →
    ∃ t : State, execAll is s = some t ∧
      drive (encodeAll is ++ b0 :: b1 :: b2 :: b3 :: later) s =
        { t with
          rxq := [], fault := true, fcause := causeCode c, rspOut := t.rspOut ++ [(causeCode c).setWidth 8] }

/-- R68: every executed packet, legal or illegal, gets exactly one response at the end of RSP_OUT: a status byte, and 48
digest bytes if and only if the command was FINALIZE. -/
def Obligations.OneResponsePerPacket : Prop :=
  ∀ s : State, s.fault = false → decode s.rxq ≠ .wait →
    ∃ (t : State) (status : Byte) (digest : List Byte),
      step s = .next t ∧ t.rspOut = s.rspOut ++ status :: digest ∧
      (∀ c rest, decode s.rxq = .illegal c rest → status = (causeCode c).setWidth 8 ∧ digest = []) ∧
      (∀ i rest, decode s.rxq = .packet i rest →
        status = 0x00 ∧ digest.length = if i = .finalize then 48 else 0)

/-- R125: while FAULT = 1 nothing HOST does but a hardware reset, and nothing the engine does, changes any state or emits
anything: each read takes one pending response byte and nothing else takes any. A step asked of the engine is the fault inert, which is the model's
reading of R125 (log entry 5). -/
def Obligations.FaultedEngineIsInert : Prop :=
  ∀ (s : State) (es : List Event), s.fault = true → (∀ e ∈ es, e ≠ .host .hwReset) →
    step s = .fault (.inert s.fcause) ∧
    onEvents es s = { s with rspOut := s.rspOut.drop (es.count (.host .read)) }

/-- R126: FAULT is cleared by hardware reset only, which puts the context in the Fresh state; without one FCAUSE keeps
the first cause. -/
def Obligations.OnlyHardwareResetClearsFault : Prop :=
  (∀ s : State, s.hwReset.fault = false ∧ s.hwReset.fcause = 0 ∧ SameContext s.hwReset State.reset) ∧
  ∀ (s : State) (es : List Event), s.fault = true →
    ((onEvents es s).fault = false → .host .hwReset ∈ es) ∧
    (.host .hwReset ∉ es → (onEvents es s).fault = true ∧ (onEvents es s).fcause = s.fcause)

/-- 70_reset_and_hazards.md R140 and 10_state.md R22: the reset values, at State.reset and after a hardware reset from any
state; the engine then waits, and RXQ is exactly the bytes that arrive from then on. -/
def Obligations.HardwareResetGivesResetValues : Prop :=
  ∀ s r : State, r = State.reset ∨ r = s.hwReset →
    r.H = #v[0xcbbb9d5dc1059ed8, 0x629a292a367cd507, 0x9159015a3070dd17, 0x152fecd8f70e5939,
      0x67332667ffc00b31, 0x8eb44a8768581511, 0xdb0c2e0d64f98fa7, 0x47b5481dbefa4fa4] ∧
    r.buf = [] ∧ r.len = 0 ∧ r.phase = .fresh ∧ r.fault = false ∧ r.fcause = 0 ∧ r.rxq = [] ∧
    decode r.rxq = .wait ∧ ∀ bs : List Byte, (r.receive bs).rxq = bs

/-- 10_state.md R32, 60_exceptions.md R125, 20_memory.md R40 and R51, 70_reset_and_hazards.md R153: bytes on CMD_IN are
appended to RXQ in order, or discarded while FAULT = 1; a read takes the first pending byte and nothing else, and has no
effect on what the engine does; a byte that arrives while a complete packet stands in RXQ may as well arrive after its
execution. -/
def Obligations.PortsQueueAndReadOnly : Prop :=
  (∀ (s : State) (bs : List Byte), s.fault = false → s.receive bs = { s with rxq := s.rxq ++ bs }) ∧
  (∀ (s : State) (bs : List Byte), s.fault = true → s.receive bs = s) ∧
  (∀ (s : State) (b : Byte) (bs : List Byte), s.rspOut = b :: bs → s.readResponse = { s with rspOut := bs }) ∧
  (∀ s : State, s.rspOut = [] → s.readResponse = s) ∧
  (∀ s t : State, s.rspOut ≠ [] → step s = .next t → step s.readResponse = .next t.readResponse) ∧
  (∀ (s t : State) (b : Byte), decode s.rxq ≠ .wait → step s = .next t →
    step (s.receiveByte b) = .next (t.receiveByte b))

/-- R51 and R153: the response stream is a function of the command byte stream alone. However HOST interleaves sending and
reading with the engine's steps, without a hardware reset, once the engine has come to rest its state is that of a run in
which all the bytes were sent first, but for the response bytes that HOST has read by then, which are the first ones of
that run's. Acts of HOST fall between steps by the model's choice (DESIGN CHOICE, log entry 6). -/
def Obligations.ScheduleDoesNotMatter : Prop :=
  ∀ (es : List Event) (s : State), .host .hwReset ∉ es →
    drive (sentBytes es) s =
      { drive [] (onEvents es s) with rspOut := readBytes es s ++ (drive [] (onEvents es s)).rspOut }

/-! ## Invariants and whole runs -/

/-- R33: the invariant of Safety.lean holds at reset. -/
def Obligations.InvariantHoldsAtReset : Prop :=
  StateInv State.reset

/-- R33 (I-a), (I-b), (I-d) with R26 and R125: every step keeps the invariant, from every state that has it. -/
def Obligations.StepKeepsInvariant : Prop :=
  ∀ s t : State, StateInv s → step s = .next t → StateInv t

/-- R33 and R142: HOST may interleave sends, reads and resets with the engine's steps as it likes; the invariant is kept,
and the session always has a message that it has absorbed (I-c). -/
def Obligations.EveryHistoryKeepsInvariant : Prop :=
  ∀ (es : List Event) (s : State) (M : List Byte), StateInv s → Absorbed M s →
    StateInv (onEvents es s) ∧ ∃ M' : List Byte, Absorbed M' (onEvents es s)

/-- R32, R51, R148: a sequence of packets sent to an engine that is between packets runs as its commands one after the
other, in order, to a complete run. The schedule of drive, all bytes sent first, is the model's choice (DESIGN CHOICE,
log entry 6; ScheduleDoesNotMatter). -/
def Obligations.PacketsRunInOrder : Prop :=
  ∀ (is : List Instr) (s : State), RunComplete s → (∀ i ∈ is, i.wf = true) →
    ∃ t : State, execAll is s = some t ∧ drive (encodeAll is) s = t ∧ RunComplete t

/-- R152: whatever bytes HOST sends, the engine comes to rest in exactly one of the three ways: complete, faulted or
waiting. The schedule of drive, all bytes sent first, is the model's choice (DESIGN CHOICE, log entry 6;
ScheduleDoesNotMatter). -/
def Obligations.RunEndsInOneOfThreeWays : Prop :=
  ∀ (C : List Byte) (s : State),
    (RunComplete (drive C s) ∧ ¬ RunFaulted (drive C s) ∧ ¬ RunWaiting (drive C s)) ∨
    (RunFaulted (drive C s) ∧ ¬ RunComplete (drive C s) ∧ ¬ RunWaiting (drive C s)) ∨
    (RunWaiting (drive C s) ∧ ¬ RunComplete (drive C s) ∧ ¬ RunFaulted (drive C s))

/-- 60_exceptions.md R130 and 10_state.md R37: what becomes of an engine depends on its own events alone. -/
def Obligations.EnginesAreIndependent : Prop :=
  ∀ (n : Nat) (es : List (Fin n × Event)) (y : System n) (k : Fin n),
    (onSystems es y)[k] = onEvents ((es.filter fun e => e.1 = k).map Prod.snd) y[k]

/-! ## The assembler -/

/-- 30_encoding.md R71: the pieces of UPDATEL fit a packet and join to the operand; where R71 leaves the cutting open the
model cuts at 65535 bytes (log entry 17). -/
def Obligations.UpdatelPiecesJoinToOperand : Prop :=
  ∀ M : List Byte, (chunks M).flatten = M ∧ (∀ c ∈ chunks M, c.length ≤ 65535) ∧
    (M.length ≤ 65535 → chunks M = [M])

/-- R70: UPDATE with a quoted ASCII string is the UPDATE of its character codes. That a semicolon or a backslash inside the
quotes is text like any other character is the model's choice (DESIGN CHOICE, log entry 16). -/
def Obligations.QuotedOperandGivesCharacterCodes : Prop :=
  ∀ text : List Char, (∀ c ∈ text, c.toNat < 128 ∧ c ≠ quoteMark) → text.length ≤ 65535 →
    asmLine (['U', 'P', 'D', 'A', 'T', 'E', ' ', quoteMark] ++ text ++ [quoteMark]) =
      .command (.update (text.map fun c => BitVec.ofNat 8 c.toNat))
end

