-- ==== Sys2Proof/Laws/Core.lean ====
section
/-!
SUPPORT. What the steps of the Compression Core read and write, and that COMPRESS does not depend on what the scratch
registers held before (10_state.md R34: "no rule reads them before writing them"; 40_compression_core.md R95).
-/

namespace Sys2Proof.Machine

theorem readW_writeW_same (x : Scratch) (v : Word) {t : Nat} (ht : t < 80) : readW (writeW x t v) t = v := by
  simp [readW, writeW, Vector.getD, ht]

theorem readW_writeW_ne (x : Scratch) (v : Word) {t u : Nat} (h : t ≠ u) : readW (writeW x t v) u = readW x u := by
  by_cases hu : u < 80
  · simp [readW, writeW, Vector.getD, hu, h]
  · simp [readW, writeW, Vector.getD, hu]

/-- W[j] for j < n is the j-th word of the block once n words are parsed. -/
theorem readW_parseLoop (B : List Byte) (x : Scratch) {n j : Nat} (hn : n ≤ 80) (hj : j < n) :
    readW (parseLoop B x n) j = BitVec.ofNat 64 (memRead B (8 * j) 8) := by
  induction n with
  | zero => omega
  | succ n ih =>
    rw [parseLoop]
    by_cases h : n = j
    · subst h; exact readW_writeW_same _ _ (by omega)
    · rw [readW_writeW_ne _ _ h]; exact ih (by omega) (by omega)

/-- The words of W below n are equal in x and y. -/
def AgreeW (n : Nat) (x y : Scratch) : Prop :=
  ∀ j < n, readW x j = readW y j

theorem agreeW_parseBlock (B : List Byte) (x y : Scratch) : AgreeW 16 (parseBlock B x) (parseBlock B y) := by
  intro j hj
  rw [parseBlock, parseBlock, readW_parseLoop B x (by decide) hj, readW_parseLoop B y (by decide) hj]

theorem agreeW_scheduleLoop {x y : Scratch} (h : AgreeW 16 x y) :
    ∀ n, n ≤ 64 → AgreeW (16 + n) (scheduleLoop x n) (scheduleLoop y n)
  | 0, _ => h
  | n + 1, hn => by
    have ih := agreeW_scheduleLoop h n (by omega)
    intro j hj
    simp only [scheduleLoop, scheduleWord, Config.blockWords]
    by_cases hje : 16 + n = j
    · subst hje
      rw [readW_writeW_same _ _ (by omega), readW_writeW_same _ _ (by omega)]
      rw [ih (16 + n - 2) (by omega), ih (16 + n - 7) (by omega), ih (16 + n - 15) (by omega), ih (16 + n - 16) (by omega)]
    · rw [readW_writeW_ne _ _ hje, readW_writeW_ne _ _ hje]
      exact ih j (by omega)

theorem w_eq_of_agreeW {x y : Scratch} (h : AgreeW 80 x y) : x.w = y.w := by
  apply Vector.ext
  intro j hj
  have := h j hj
  simpa [readW, Vector.getD, hj] using this

/-- A round reads a..h and W and writes everything else it leaves. -/
theorem coreRound_congr (t : Nat) {x y : Scratch} (hw : x.w = y.w) (ha : x.a = y.a) (hb : x.b = y.b) (hc : x.c = y.c)
    (hd : x.d = y.d) (he : x.e = y.e) (hf : x.f = y.f) (hg : x.g = y.g) (hh : x.h = y.h) :
    coreRound t x = coreRound t y := by
  cases x; cases y; cases hw; cases ha; cases hb; cases hc; cases hd; cases he; cases hf; cases hg; cases hh; rfl

theorem roundLoop_congr {x y : Scratch} (hw : x.w = y.w) (ha : x.a = y.a) (hb : x.b = y.b) (hc : x.c = y.c)
    (hd : x.d = y.d) (he : x.e = y.e) (hf : x.f = y.f) (hg : x.g = y.g) (hh : x.h = y.h) :
    ∀ n, roundLoop x (n + 1) = roundLoop y (n + 1)
  | 0 => coreRound_congr 0 hw ha hb hc hd he hf hg hh
  | n + 1 => congrArg (coreRound (n + 1)) (roundLoop_congr hw ha hb hc hd he hf hg hh n)

theorem w_schedule_parseBlock (B : List Byte) (x y : Scratch) :
    (schedule (parseBlock B x)).w = (schedule (parseBlock B y)).w :=
  w_eq_of_agreeW (agreeW_scheduleLoop (agreeW_parseBlock B x y) 64 (Nat.le_refl 64))

theorem roundLoop_loadVars (S : Hash) {x y : Scratch} (hw : x.w = y.w) (n : Nat) :
    roundLoop (loadVars S x) (n + 1) = roundLoop (loadVars S y) (n + 1) :=
  roundLoop_congr (x := loadVars S x) (y := loadVars S y) hw rfl rfl rfl rfl rfl rfl rfl rfl n

/-- The scratch registers after the rounds of a compression do not depend on what they held before it. -/
theorem runCore_congr (S : Hash) (B : List Byte) (x y : Scratch) : runCore S B x = runCore S B y :=
  roundLoop_loadVars S (w_schedule_parseBlock B x y) 79

/-- COMPRESS is a function of S and B alone (R95). -/
@[simp] theorem compressFrom_eq (x : Scratch) (S : Hash) (B : List Byte) : compressFrom x S B = compress S B :=
  congrArg (addBack S) (runCore_congr S B x Scratch.reset)

end Sys2Proof.Machine
end

