-- ==== Sys2Proof/Laws/State.lean ====
section
/-!
SUPPORT. One lemma per field of State per named update of Machine/Ops.lean, each true by rfl, so that no later proof
unfolds a record update.
-/

namespace Sys2Proof.Machine

@[simp] theorem State.takePacket_H (rest : List Byte) (s : State) : (s.takePacket rest).H = s.H := rfl
@[simp] theorem State.takePacket_buf (rest : List Byte) (s : State) : (s.takePacket rest).buf = s.buf := rfl
@[simp] theorem State.takePacket_len (rest : List Byte) (s : State) : (s.takePacket rest).len = s.len := rfl
@[simp] theorem State.takePacket_phase (rest : List Byte) (s : State) : (s.takePacket rest).phase = s.phase := rfl
@[simp] theorem State.takePacket_fault (rest : List Byte) (s : State) : (s.takePacket rest).fault = s.fault := rfl
@[simp] theorem State.takePacket_fcause (rest : List Byte) (s : State) : (s.takePacket rest).fcause = s.fcause := rfl
@[simp] theorem State.takePacket_rxq (rest : List Byte) (s : State) : (s.takePacket rest).rxq = rest := rfl
@[simp] theorem State.takePacket_rspOut (rest : List Byte) (s : State) : (s.takePacket rest).rspOut = s.rspOut := rfl
@[simp] theorem State.takePacket_scratch (rest : List Byte) (s : State) : (s.takePacket rest).scratch = s.scratch := rfl
@[simp] theorem State.takePacket_freeCount (rest : List Byte) (s : State) : (s.takePacket rest).freeCount = s.freeCount := rfl

@[simp] theorem State.respond_H (r : List Byte) (s : State) : (s.respond r).H = s.H := rfl
@[simp] theorem State.respond_buf (r : List Byte) (s : State) : (s.respond r).buf = s.buf := rfl
@[simp] theorem State.respond_len (r : List Byte) (s : State) : (s.respond r).len = s.len := rfl
@[simp] theorem State.respond_phase (r : List Byte) (s : State) : (s.respond r).phase = s.phase := rfl
@[simp] theorem State.respond_fault (r : List Byte) (s : State) : (s.respond r).fault = s.fault := rfl
@[simp] theorem State.respond_fcause (r : List Byte) (s : State) : (s.respond r).fcause = s.fcause := rfl
@[simp] theorem State.respond_rxq (r : List Byte) (s : State) : (s.respond r).rxq = s.rxq := rfl
@[simp] theorem State.respond_rspOut (r : List Byte) (s : State) : (s.respond r).rspOut = s.rspOut ++ r := rfl
@[simp] theorem State.respond_scratch (r : List Byte) (s : State) : (s.respond r).scratch = s.scratch := rfl
@[simp] theorem State.respond_freeCount (r : List Byte) (s : State) : (s.respond r).freeCount = s.freeCount := rfl

@[simp] theorem State.resetContext_H (s : State) : (s.resetContext).H = iv := rfl
@[simp] theorem State.resetContext_buf (s : State) : (s.resetContext).buf = [] := rfl
@[simp] theorem State.resetContext_len (s : State) : (s.resetContext).len = 0 := rfl
@[simp] theorem State.resetContext_phase (s : State) : (s.resetContext).phase = .fresh := rfl
@[simp] theorem State.resetContext_fault (s : State) : (s.resetContext).fault = s.fault := rfl
@[simp] theorem State.resetContext_fcause (s : State) : (s.resetContext).fcause = s.fcause := rfl
@[simp] theorem State.resetContext_rxq (s : State) : (s.resetContext).rxq = s.rxq := rfl
@[simp] theorem State.resetContext_rspOut (s : State) : (s.resetContext).rspOut = s.rspOut := rfl
@[simp] theorem State.resetContext_scratch (s : State) : (s.resetContext).scratch = s.scratch := rfl
@[simp] theorem State.resetContext_freeCount (s : State) : (s.resetContext).freeCount = s.freeCount := rfl

@[simp] theorem State.addLen_H (n : Nat) (s : State) : (s.addLen n).H = s.H := rfl
@[simp] theorem State.addLen_buf (n : Nat) (s : State) : (s.addLen n).buf = s.buf := rfl
@[simp] theorem State.addLen_len (n : Nat) (s : State) : (s.addLen n).len = s.len + BitVec.ofNat 128 n := rfl
@[simp] theorem State.addLen_phase (n : Nat) (s : State) : (s.addLen n).phase = s.phase := rfl
@[simp] theorem State.addLen_fault (n : Nat) (s : State) : (s.addLen n).fault = s.fault := rfl
@[simp] theorem State.addLen_fcause (n : Nat) (s : State) : (s.addLen n).fcause = s.fcause := rfl
@[simp] theorem State.addLen_rxq (n : Nat) (s : State) : (s.addLen n).rxq = s.rxq := rfl
@[simp] theorem State.addLen_rspOut (n : Nat) (s : State) : (s.addLen n).rspOut = s.rspOut := rfl
@[simp] theorem State.addLen_scratch (n : Nat) (s : State) : (s.addLen n).scratch = s.scratch := rfl
@[simp] theorem State.addLen_freeCount (n : Nat) (s : State) : (s.addLen n).freeCount = s.freeCount := rfl

@[simp] theorem State.setPhaseAfterUpdate_H (n : Nat) (s : State) : (s.setPhaseAfterUpdate n).H = s.H := rfl
@[simp] theorem State.setPhaseAfterUpdate_buf (n : Nat) (s : State) : (s.setPhaseAfterUpdate n).buf = s.buf := rfl
@[simp] theorem State.setPhaseAfterUpdate_len (n : Nat) (s : State) : (s.setPhaseAfterUpdate n).len = s.len := rfl
@[simp] theorem State.setPhaseAfterUpdate_phase (n : Nat) (s : State) : (s.setPhaseAfterUpdate n).phase = phaseAfterUpdate n s.phase := rfl
@[simp] theorem State.setPhaseAfterUpdate_fault (n : Nat) (s : State) : (s.setPhaseAfterUpdate n).fault = s.fault := rfl
@[simp] theorem State.setPhaseAfterUpdate_fcause (n : Nat) (s : State) : (s.setPhaseAfterUpdate n).fcause = s.fcause := rfl
@[simp] theorem State.setPhaseAfterUpdate_rxq (n : Nat) (s : State) : (s.setPhaseAfterUpdate n).rxq = s.rxq := rfl
@[simp] theorem State.setPhaseAfterUpdate_rspOut (n : Nat) (s : State) : (s.setPhaseAfterUpdate n).rspOut = s.rspOut := rfl
@[simp] theorem State.setPhaseAfterUpdate_scratch (n : Nat) (s : State) : (s.setPhaseAfterUpdate n).scratch = s.scratch := rfl
@[simp] theorem State.setPhaseAfterUpdate_freeCount (n : Nat) (s : State) : (s.setPhaseAfterUpdate n).freeCount = s.freeCount := rfl

@[simp] theorem State.setBuf_H (B : List Byte) (s : State) : (s.setBuf B).H = s.H := rfl
@[simp] theorem State.setBuf_buf (B : List Byte) (s : State) : (s.setBuf B).buf = B := rfl
@[simp] theorem State.setBuf_len (B : List Byte) (s : State) : (s.setBuf B).len = s.len := rfl
@[simp] theorem State.setBuf_phase (B : List Byte) (s : State) : (s.setBuf B).phase = s.phase := rfl
@[simp] theorem State.setBuf_fault (B : List Byte) (s : State) : (s.setBuf B).fault = s.fault := rfl
@[simp] theorem State.setBuf_fcause (B : List Byte) (s : State) : (s.setBuf B).fcause = s.fcause := rfl
@[simp] theorem State.setBuf_rxq (B : List Byte) (s : State) : (s.setBuf B).rxq = s.rxq := rfl
@[simp] theorem State.setBuf_rspOut (B : List Byte) (s : State) : (s.setBuf B).rspOut = s.rspOut := rfl
@[simp] theorem State.setBuf_scratch (B : List Byte) (s : State) : (s.setBuf B).scratch = s.scratch := rfl
@[simp] theorem State.setBuf_freeCount (B : List Byte) (s : State) : (s.setBuf B).freeCount = s.freeCount := rfl

@[simp] theorem State.compressBlock_H (B : List Byte) (s : State) : (s.compressBlock B).H = compressFrom s.scratch s.H B := rfl
@[simp] theorem State.compressBlock_buf (B : List Byte) (s : State) : (s.compressBlock B).buf = s.buf := rfl
@[simp] theorem State.compressBlock_len (B : List Byte) (s : State) : (s.compressBlock B).len = s.len := rfl
@[simp] theorem State.compressBlock_phase (B : List Byte) (s : State) : (s.compressBlock B).phase = s.phase := rfl
@[simp] theorem State.compressBlock_fault (B : List Byte) (s : State) : (s.compressBlock B).fault = s.fault := rfl
@[simp] theorem State.compressBlock_fcause (B : List Byte) (s : State) : (s.compressBlock B).fcause = s.fcause := rfl
@[simp] theorem State.compressBlock_rxq (B : List Byte) (s : State) : (s.compressBlock B).rxq = s.rxq := rfl
@[simp] theorem State.compressBlock_rspOut (B : List Byte) (s : State) : (s.compressBlock B).rspOut = s.rspOut := rfl
@[simp] theorem State.compressBlock_scratch (B : List Byte) (s : State) : (s.compressBlock B).scratch = freeScratch s.freeCount := rfl
@[simp] theorem State.compressBlock_freeCount (B : List Byte) (s : State) : (s.compressBlock B).freeCount = s.freeCount + 1 := rfl

@[simp] theorem State.enterFault_H (c : Cause) (s : State) : (s.enterFault c).H = s.H := rfl
@[simp] theorem State.enterFault_buf (c : Cause) (s : State) : (s.enterFault c).buf = s.buf := rfl
@[simp] theorem State.enterFault_len (c : Cause) (s : State) : (s.enterFault c).len = s.len := rfl
@[simp] theorem State.enterFault_phase (c : Cause) (s : State) : (s.enterFault c).phase = s.phase := rfl
@[simp] theorem State.enterFault_fault (c : Cause) (s : State) : (s.enterFault c).fault = true := rfl
@[simp] theorem State.enterFault_fcause (c : Cause) (s : State) : (s.enterFault c).fcause = causeCode c := rfl
@[simp] theorem State.enterFault_rxq (c : Cause) (s : State) : (s.enterFault c).rxq = [] := rfl
@[simp] theorem State.enterFault_rspOut (c : Cause) (s : State) : (s.enterFault c).rspOut = s.rspOut ++ [statusOfCause c] := rfl
@[simp] theorem State.enterFault_scratch (c : Cause) (s : State) : (s.enterFault c).scratch = s.scratch := rfl
@[simp] theorem State.enterFault_freeCount (c : Cause) (s : State) : (s.enterFault c).freeCount = s.freeCount := rfl

@[simp] theorem State.hwReset_H (s : State) : (s.hwReset).H = iv := rfl
@[simp] theorem State.hwReset_buf (s : State) : (s.hwReset).buf = [] := rfl
@[simp] theorem State.hwReset_len (s : State) : (s.hwReset).len = 0 := rfl
@[simp] theorem State.hwReset_phase (s : State) : (s.hwReset).phase = .fresh := rfl
@[simp] theorem State.hwReset_fault (s : State) : (s.hwReset).fault = false := rfl
@[simp] theorem State.hwReset_fcause (s : State) : (s.hwReset).fcause = 0 := rfl
@[simp] theorem State.hwReset_rxq (s : State) : (s.hwReset).rxq = [] := rfl
@[simp] theorem State.hwReset_rspOut (s : State) : (s.hwReset).rspOut = s.rspOut := rfl
@[simp] theorem State.hwReset_scratch (s : State) : (s.hwReset).scratch = Scratch.reset := rfl
@[simp] theorem State.hwReset_freeCount (s : State) : (s.hwReset).freeCount = s.freeCount := rfl

end Sys2Proof.Machine
end

