-- ==== Sys2Proof/Laws/Ops.lean ====
section
/-!
SUPPORT. One law for each shared operation of the commands, the three meanings as equations, and the one inversion lemma
of `step`.
-/

namespace Sys2Proof.Machine

/-- One absorbed byte touches H, BUF, the scratch registers and the model's counter only. -/
theorem absorbByte_frame (s : State) (d : Byte) :
    (absorbByte s d).len = s.len ∧ (absorbByte s d).phase = s.phase ∧ (absorbByte s d).fault = s.fault ∧
    (absorbByte s d).fcause = s.fcause ∧ (absorbByte s d).rxq = s.rxq ∧ (absorbByte s d).rspOut = s.rspOut := by
  simp only [absorbByte]
  split <;> simp

/-- A byte that does not fill BUF is only appended. -/
theorem absorbByte_short {s : State} (d : Byte) (h : s.buf.length + 1 ≠ 128) :
    absorbByte s d = s.setBuf (s.buf ++ [d]) := by
  simp [absorbByte, h]

/-- The byte that fills BUF has it compressed and emptied. -/
theorem absorbByte_full {s : State} (d : Byte) (h : s.buf.length + 1 = 128) :
    absorbByte s d = ((s.setBuf (s.buf ++ [d])).compressBlock (s.buf ++ [d])).setBuf [] := by
  simp [absorbByte, h]

/-- The loop of UPDATE touches H, BUF, the scratch registers and the model's counter only. -/
theorem absorb_frame (D : List Byte) : ∀ s : State,
    (absorb D s).len = s.len ∧ (absorb D s).phase = s.phase ∧ (absorb D s).fault = s.fault ∧
    (absorb D s).fcause = s.fcause ∧ (absorb D s).rxq = s.rxq ∧ (absorb D s).rspOut = s.rspOut := by
  induction D with
  | nil => intro s; exact ⟨rfl, rfl, rfl, rfl, rfl, rfl⟩
  | cons d D ih =>
    intro s
    obtain ⟨h1, h2, h3, h4, h5, h6⟩ := absorbByte_frame s d
    obtain ⟨i1, i2, i3, i4, i5, i6⟩ := ih (absorbByte s d)
    exact ⟨i1.trans h1, i2.trans h2, i3.trans h3, i4.trans h4, i5.trans h5, i6.trans h6⟩

theorem absorb_append (D E : List Byte) (s : State) : absorb (D ++ E) s = absorb E (absorb D s) := by
  simp [absorb]

/-- The compressions of FINALIZE: one block, or two when the tail has 256 bytes; they leave the CTX's other registers. -/
theorem compressTail_spec (P : List Byte) (s : State) :
    (compressTail P s).H =
      (if P.length = 256 then compress (compress s.H (P.take 128)) ((P.drop 128).take 128)
       else compress s.H (P.take 128)) ∧
    (compressTail P s).buf = s.buf ∧ (compressTail P s).len = s.len ∧ (compressTail P s).phase = s.phase ∧
    (compressTail P s).fault = s.fault ∧ (compressTail P s).fcause = s.fcause ∧ (compressTail P s).rxq = s.rxq ∧
    (compressTail P s).rspOut = s.rspOut := by
  simp only [compressTail]
  split <;> simp

theorem exec_init (s : State) : exec .init s = .next (s.resetContext.respond [statusOk]) := rfl

theorem exec_update_nil (s : State) : exec (.update []) s = .next (s.respond [statusOk]) := rfl

theorem exec_update_cons (d : Byte) (D : List Byte) (s : State) :
    exec (.update (d :: D)) s =
      .next ((absorb (d :: D) ((s.addLen (D.length + 1)).setPhaseAfterUpdate (D.length + 1))).respond [statusOk]) := by
  simp [exec, execUpdate]

theorem exec_finalize (s : State) :
    exec .finalize s =
      .next (((compressTail (pad s.buf s.len) s).respond
        (statusOk :: serialize (compressTail (pad s.buf s.len) s).H)).resetContext) := rfl

/-- Everything a step can do when it answers a next state: wait, take the decode fault, or execute a packet. -/
theorem step_cases {s t : State} (h : step s = .next t) :
    s.fault = false ∧
    ((decode s.rxq = .wait ∧ t = s) ∨
     (∃ c rest, decode s.rxq = .illegal c rest ∧ t = s.enterFault c) ∨
     (∃ i rest, decode s.rxq = .packet i rest ∧ exec i (s.takePacket rest) = .next t)) := by
  cases hf : s.fault with
  | true => simp [step, hf, stayInert] at h
  | false =>
    refine ⟨rfl, ?_⟩
    simp only [step, hf, Bool.false_eq_true, if_false] at h
    cases hd : decode s.rxq with
    | wait => simp only [hd, holdWaiting] at h; cases h; exact .inl ⟨rfl, rfl⟩
    | illegal c rest => simp only [hd, takeDecodeFault] at h; cases h; exact .inr (.inl ⟨c, rest, rfl, rfl⟩)
    | packet i rest => simp only [hd] at h; exact .inr (.inr ⟨i, rest, rfl, h⟩)

end Sys2Proof.Machine
end

