-- ==== Sys2Proof/Laws/Blocks.lean ====
section
/-!
SUPPORT. UPDATE's loop in terms of whole blocks.
-/

namespace Sys2Proof.Machine

/-- Folding n blocks reads no byte beyond them. -/
theorem foldBlocks_append (f : Hash → List Byte → Hash) (S : Hash) (n : Nat) (P Q : List Byte)
    (h : 128 * n ≤ P.length) : foldBlocks f S n (P ++ Q) = foldBlocks f S n P := by
  induction n generalizing S P with
  | zero => rfl
  | succ n ih =>
    simp only [foldBlocks]
    rw [List.take_append_of_le_length (by omega), List.drop_append_of_le_length (by omega), ih _ _ (by simp; omega)]
/-- What absorbing a payload does to H, BUF, the model's counter and the scratch registers (41_streaming_context.md R102,
R104); absorb_frame says that it does nothing else. -/
theorem absorb_spec (D : List Byte) (s : State) (h : s.buf.length ≤ 127) :
    (absorb D s).H = foldBlocks compress s.H ((s.buf.length + D.length) / 128) (s.buf ++ D) ∧
    (absorb D s).buf = (s.buf ++ D).drop (128 * ((s.buf.length + D.length) / 128)) ∧
    (absorb D s).freeCount = s.freeCount + (s.buf.length + D.length) / 128 ∧
    ((s.buf.length + D.length) / 128 = 0 → (absorb D s).scratch = s.scratch) := by
  induction D generalizing s with
  | nil =>
    have : (s.buf.length) / 128 = 0 := by omega
    simp only [absorb, List.foldl_nil, List.length_nil, Nat.add_zero, this]
    simp [foldBlocks]
  | cons d D ih =>
    rw [show absorb (d :: D) s = absorb D (absorbByte s d) from rfl]
    by_cases hf : s.buf.length + 1 = 128
    · rw [absorbByte_full d hf]
      obtain ⟨i1, i2, i3, i4⟩ := ih (((s.setBuf (s.buf ++ [d])).compressBlock (s.buf ++ [d])).setBuf []) (by simp)
      have e : (s.buf.length + (D.length + 1)) / 128 = D.length / 128 + 1 := by omega
      simp only [State.setBuf_buf, List.length_nil, Nat.zero_add, List.nil_append] at i1 i2 i3
      rw [i1, i2, i3]
      simp only [List.length_cons, e]
      have h1 : s.buf ++ d :: D = (s.buf ++ [d]) ++ D := by simp
      have hl : (s.buf ++ [d]).length = 128 := by simp; omega
      refine ⟨?_, ?_, ?_, by intro h; omega⟩
      · rw [foldBlocks, h1, List.take_left' hl, List.drop_left' hl]; simp
      · have k : 128 * (D.length/128+1) = 128 * (D.length/128) + 128 := by omega
        have z : (s.buf ++ [d]).drop (128 * (D.length/128) + 128) = [] := List.drop_eq_nil_of_le (by omega)
        rw [h1, k, List.drop_append, z, hl, Nat.add_sub_cancel, List.nil_append]
      · simp; omega
    · rw [absorbByte_short d hf]
      obtain ⟨i1, i2, i3, i4⟩ := ih (s.setBuf (s.buf ++ [d])) (by simp; omega)
      have e : ((s.buf ++ [d]).length + D.length) = s.buf.length + (D.length + 1) := by simp; omega
      have h1 : s.buf ++ [d] ++ D = s.buf ++ d :: D := by simp
      simp only [State.setBuf_buf, State.setBuf_H, State.setBuf_freeCount, State.setBuf_scratch, e, h1] at i1 i2 i3 i4
      exact ⟨i1, i2, i3, i4⟩

end Sys2Proof.Machine
end

