-- ==== Sys2Proof/Laws/Decode.lean ====
section
/-!
SUPPORT. The header fields of four bytes (30_encoding.md R61), and when the decoder waits for want of a header (R64).
-/

namespace Sys2Proof

/-- OPC is the first byte, RSV the second, PLEN the last two, high byte first. -/
@[simp] theorem headerFields_headerWord (b0 b1 b2 b3 : Byte) :
    headerFields (headerWord b0 b1 b2 b3) = ⟨b0, b1, b2 ++ b3⟩ := by
  simp only [headerFields, headerWord, Header.mk.injEq]
  refine ⟨?_, ?_, ?_⟩ <;>
  · apply BitVec.eq_of_getLsbD_eq
    intro i hi
    simp
    grind

@[simp] theorem decode_header (b0 b1 b2 b3 : Byte) (rest : List Byte) :
    decode (b0 :: b1 :: b2 :: b3 :: rest) = takePayload (classify ⟨b0, b1, b2 ++ b3⟩) rest := by
  simp [decode]

/-- PLEN = b2·256 + b3 (R65). -/
@[simp] theorem plen_toNat (b2 b3 : Byte) : (b2 ++ b3).toNat = b2.toNat * 256 + b3.toNat := by
  rw [BitVec.toNat_append, Nat.shiftLeft_eq, ← Nat.shiftLeft_eq, ← Nat.shiftLeft_add_eq_or_of_lt (by omega),
    Nat.shiftLeft_eq]

/-- Fewer than 4 bytes hold no packet. -/
theorem decode_short {q : List Byte} (h : q.length < 4) : decode q = .wait := by
  match q, h with
  | [], _ => rfl
  | [_], _ => rfl
  | [_, _], _ => rfl
  | [_, _, _], _ => rfl

/-- A legal packet found by the decoder begins with its four header bytes, and the payload and the rest follow. -/
theorem takePayload_packet {k : HeaderClass} {rest rest' : List Byte} {i : Instr}
    (h : takePayload k rest = .packet i rest') :
    (k = .init ∧ i = .init ∧ rest = rest') ∨ (k = .finalize ∧ i = .finalize ∧ rest = rest') ∨
    (∃ n, k = .update n ∧ n ≤ rest.length ∧ i = .update (rest.take n) ∧ rest' = rest.drop n) := by
  cases k with
  | illegal c => cases h
  | init => cases h; exact .inl ⟨rfl, rfl, rfl⟩
  | finalize => cases h; exact .inr (.inl ⟨rfl, rfl, rfl⟩)
  | update n =>
    simp only [takePayload] at h
    split at h
    · cases h
    · cases h; exact .inr (.inr ⟨n, rfl, by omega, rfl, rfl⟩)

/-- A byte that arrives behind a complete packet does not change what the decoder finds. -/
theorem decode_append {q : List Byte} (b : Byte) :
    (∀ c rest, decode q = .illegal c rest → decode (q ++ [b]) = .illegal c (rest ++ [b])) ∧
    (∀ i rest, decode q = .packet i rest → decode (q ++ [b]) = .packet i (rest ++ [b])) := by
  match q with
  | [] => exact ⟨nofun, nofun⟩
  | [_] => exact ⟨nofun, nofun⟩
  | [_, _] => exact ⟨nofun, nofun⟩
  | [_, _, _] => exact ⟨nofun, nofun⟩
  | b0 :: b1 :: b2 :: b3 :: r =>
    simp only [List.cons_append, decode_header]
    cases classify ⟨b0, b1, b2 ++ b3⟩ with
    | illegal c => constructor <;> intro _ _ h <;> cases h; rfl
    | init => constructor <;> intro _ _ h <;> cases h; rfl
    | finalize => constructor <;> intro _ _ h <;> cases h; rfl
    | update n =>
      simp only [takePayload]
      constructor <;> intro _ _ h <;> split at h <;> cases h
      rw [if_neg (by simp; omega), List.take_append_of_le_length (by omega), List.drop_append_of_le_length (by omega)]

end Sys2Proof
end

