-- ==== Sys2Proof/Laws/PerInstr.lean ====
section
/-!
SUPPORT. What holds of every command as syntax, a lemma per constructor.
-/

namespace Sys2Proof.Laws

/-- A command's packet has the length R64 gives it: 4 header bytes, and PLEN payload bytes for UPDATE. -/
def PacketLength.Statement (i : Instr) : Prop :=
  (encode i).length = i.packetLength

theorem PacketLength.init : PacketLength.Statement .init := rfl

theorem PacketLength.update (payload : List Byte) : PacketLength.Statement (.update payload) := by
  simp [PacketLength.Statement, encode, encodeHeader, Instr.packetLength, Instr.payload, Config.hdrBytes]
  omega

theorem PacketLength.finalize : PacketLength.Statement .finalize := rfl

end Sys2Proof.Laws
end

