-- ==== Sys2Proof/Laws/Ports.lean ====
section
/-!
SUPPORT. What the operations of HOST do (70_reset_and_hazards.md R153), and the two ways an engine rests.
-/

namespace Sys2Proof.Machine

/-- While FAULT = 1 an arriving byte is discarded (60_exceptions.md R125). -/
theorem receiveByte_faulted {s : State} (b : Byte) (h : s.fault = true) : s.receiveByte b = s := by
  unfold State.receiveByte
  rw [h]
  rfl

/-- Arriving bytes are appended to RXQ in order (10_state.md R32). -/
theorem receive_running (bs : List Byte) :
    ∀ {s : State}, s.fault = false → s.receive bs = { s with rxq := s.rxq ++ bs } := by
  induction bs with
  | nil => intro s _; simp [State.receive]
  | cons b bs ih =>
    intro s h
    have hb : s.receiveByte b = { s with rxq := s.rxq ++ [b] } := by simp [State.receiveByte, h]
    show (s.receiveByte b).receive bs = _
    rw [hb, ih (s := { s with rxq := s.rxq ++ [b] }) h]
    simp

@[simp] theorem onEvents_nil (s : State) : onEvents [] s = s := rfl

@[simp] theorem onEvents_cons (e : Event) (es : List Event) (s : State) :
    onEvents (e :: es) s = onEvents es (onEvent e s) := rfl

@[simp] theorem receive_nil (s : State) : s.receive [] = s := rfl

@[simp] theorem receive_cons (b : Byte) (bs : List Byte) (s : State) :
    s.receive (b :: bs) = (s.receiveByte b).receive bs := rfl

@[simp] theorem sentBytes_nil : sentBytes [] = [] := rfl

@[simp] theorem sentBytes_engine (es : List Event) : sentBytes (.engine :: es) = sentBytes es := rfl

@[simp] theorem sentBytes_send (b : Byte) (es : List Event) :
    sentBytes (.host (.send b) :: es) = b :: sentBytes es := rfl

@[simp] theorem sentBytes_read (es : List Event) : sentBytes (.host .read :: es) = sentBytes es := rfl

@[simp] theorem sentBytes_hwReset (es : List Event) : sentBytes (.host .hwReset :: es) = sentBytes es := rfl

/-- An engine whose step answers its own state rests there. -/
theorem runSteps_waiting {s : State} (h : step s = .next s) : ∀ n, runSteps n s = s
  | 0 => rfl
  | n + 1 => by simp only [runSteps, onEvent, h, runSteps_waiting h n]

/-- A faulted engine keeps its state (R125). -/
theorem runSteps_faulted {s : State} (h : s.fault = true) : ∀ n, runSteps n s = s
  | 0 => rfl
  | n + 1 => by
    have hs : step s = .fault (.inert s.fcause) := by simp [step, h, stayInert]
    simp only [runSteps, onEvent, hs, runSteps_faulted h n]

end Sys2Proof.Machine
end

