-- ==== Sys2Proof/Tests/Slice0.lean ====
section
/-!
SUPPORT. Tests. Expected values are the spec's own (95_test_vectors.md T1 to T9, P1 to P5, and the examples of the rules);
each test's comment names its source. The second half shows, for every statement that has hypotheses, a state and operands
that meet them together, at the boundary values of each clause.
-/

namespace Sys2Proof.Tests

open Sys2Proof Sys2Proof.Machine

/-! ## Helpers -/

/-- The next state, if there is one. -/
def nextOf (o : Host.Outcome State Fault Refusal) : Option State :=
  match o with
  | .next t => some t
  | .fault _ => none
  | .refused _ => none

/-- "abc". -/
def abc : List Byte := [0x61, 0x62, 0x63]

/-- The padded block of "abc" (T2). -/
def abcBlock : List Byte := abc ++ [0x80] ++ List.replicate 123 0x00 ++ [0x18]

/-- The reset state with n bytes 0x61 in BUF. -/
def holding (n : Nat) : State :=
  { State.reset with buf := List.replicate n 0x61, len := BitVec.ofNat 128 n, phase := .accum }

/-- The reset state with bytes waiting in RXQ. -/
def receiving (q : List Byte) : State :=
  { State.reset with rxq := q }

/-- A state that has taken a decode fault and has two response bytes pending. -/
def faulted : State :=
  { holding 3 with fault := true, fcause := 2, rspOut := [0x00, 0x02] }

/-! ## Well-formedness -/

/-- The check on a payload of n equal bytes. -/
theorem wf_replicate (n : Nat) (b : Byte) : (Instr.update (List.replicate n b)).wf = decide (n ≤ 65535) :=
  congrArg (fun k => decide (k ≤ 65535)) List.length_replicate

/-- R65, R70: 65535 payload bytes are the most. -/
theorem test_wf_payload_too_long : (Instr.update (List.replicate 65536 0x00)).wf = false :=
  wf_replicate 65536 0x00

theorem test_wf_longest_payload : (Instr.update (List.replicate 65535 0x00)).wf = true :=
  wf_replicate 65535 0x00

/-! ## Decoding: bytes written out from R61 to R63, classes of T9 -/

theorem test_decode_init : decode [0x01, 0x00, 0x00, 0x00] = .packet .init [] := by decide

theorem test_decode_update :
    decode [0x02, 0x00, 0x00, 0x03, 0x61, 0x62, 0x63, 0x03] = .packet (.update abc) [0x03] := by decide

theorem test_decode_finalize : decode [0x03, 0x00, 0x00, 0x00, 0x01] = .packet .finalize [0x01] := by decide

/-- T9: illegal opcodes, the one with RSV not 0 among them. -/
theorem test_decode_illegal_opcode :
    decode [0x00, 0x00, 0x00, 0x00] = .illegal .illegalOpcode [] ∧
    decode [0x04, 0x00, 0x00, 0x00] = .illegal .illegalOpcode [] ∧
    decode [0xff, 0xff, 0xff, 0xff] = .illegal .illegalOpcode [] ∧
    decode [0x80, 0x01, 0x00, 0x00] = .illegal .illegalOpcode [] := by decide

/-- T9: reserved fields that are not 0. -/
theorem test_decode_reserved :
    decode [0x01, 0x01, 0x00, 0x00] = .illegal .reservedNonzero [] ∧
    decode [0x02, 0x01, 0x00, 0x00] = .illegal .reservedNonzero [] ∧
    decode [0x01, 0x00, 0x00, 0x01] = .illegal .reservedNonzero [] ∧
    decode [0x03, 0x00, 0x00, 0x01] = .illegal .reservedNonzero [] ∧
    decode [0x03, 0x00, 0x01, 0x00] = .illegal .reservedNonzero [] := by decide

/-- T9 and its last line: incomplete packets. -/
theorem test_decode_wait :
    decode [0x02, 0x00, 0x00] = .wait ∧ decode [0x02, 0x00, 0x00, 0x03, 0x61, 0x62] = .wait ∧
    decode [0x02, 0x00, 0xff, 0xff, 0x00] = .wait := by decide

/-- R72: the header of an UPDATE of 300 bytes is 02 00 01 2C. -/
theorem test_encode_update_300 :
    (encode (.update (List.replicate 300 0x00))).take 4 = [0x02, 0x00, 0x01, 0x2c] := by decide +kernel

/-- The rows of spec/opcode_table.json as words; an UPDATE word with the payload "abc". -/
theorem test_decodeTableWord :
    decodeTableWord 32 0x01000000 = some .init ∧ decodeTableWord 32 0x02000000 = some (.update []) ∧
    decodeTableWord 56 0x63626102000003 = some (.update abc) ∧ decodeTableWord 32 0x03000000 = some .finalize ∧
    decodeTableWord 32 0x04000000 = none := by decide

/-! ## The CORE -/

/-- T3, the row of 8000000000000000. -/
theorem test_word_functions_top_bit :
    rotr 0x8000000000000000 1 = 0x4000000000000000 ∧ rotr 0x8000000000000000 8 = 0x0080000000000000 ∧
    shr 0x8000000000000000 7 = 0x0100000000000000 ∧ smallSigma0 0x8000000000000000 = 0x4180000000000000 ∧
    smallSigma1 0x8000000000000000 = 0x0200100000000004 ∧ bigSigma0 0x8000000000000000 = 0x0000000821000000 ∧
    bigSigma1 0x8000000000000000 = 0x0002200000400000 := by decide

/-- T3, the row of 6162638000000000. -/
theorem test_word_functions_abc :
    smallSigma0 0x6162638000000000 = 0x3012976480000000 ∧ smallSigma1 0x6162638000000000 = 0x0a9699a24c700003 ∧
    bigSigma0 0x6162638000000000 = 0x000000060ebc6427 ∧ bigSigma1 0x6162638000000000 = 0xc0019dd116d0b131 := by
  decide

/-- T3, the last two rows of the table of Ch and Maj. -/
theorem test_ch_maj :
    ch 0x67332667ffc00b31 0x8eb44a8768581511 0xdb0c2e0d64f98fa7 = 0x9e3c0a0f68798597 ∧
    maj 0x67332667ffc00b31 0x8eb44a8768581511 0xdb0c2e0d64f98fa7 = 0xcf342e076cd80f31 ∧
    ch 0xcbbb9d5dc1059ed8 0x629a292a367cd507 0x9159015a3070dd17 = 0x52da090a3074d507 ∧
    maj 0xcbbb9d5dc1059ed8 0x629a292a367cd507 0x9159015a3070dd17 = 0xc39b095a3074dd17 := by decide

/-- R27: the ROM has 80 words; the first, the first of the row at 40, and the last. -/
theorem test_kRom :
    kRom.length = 80 ∧ kAt 0 = 0x428a2f98d728ae22 ∧ kAt 40 = 0xa2bfe8a14cf10364 ∧ kAt 79 = 0x6c44198c4a475817 := by
  decide

/-- R90 and R91, the example of "abc" (T2). -/
theorem test_schedule_abc :
    let x := schedule (parseBlock abcBlock Scratch.reset)
    readW x 0 = 0x6162638000000000 ∧ readW x 15 = 0x18 ∧ readW x 16 = 0x6162638000000000 ∧
    readW x 17 = 0x00030000000000c0 ∧ readW x 18 = 0x0a9699a24c700003 ∧ readW x 79 = 0x92aeeed1a7bcf7d2 := by
  decide +kernel

/-- R93, the example of round 0 of "abc". -/
theorem test_round_zero :
    let x := coreRound 0 (loadVars iv (parseBlock abcBlock Scratch.reset))
    x.t1 = 0xa7d40a4bc7521cc0 ∧ x.t2 = 0x9f358a61693522c8 ∧
    x.a = 0x470994ad30873f88 ∧ x.b = 0xcbbb9d5dc1059ed8 ∧ x.c = 0x629a292a367cd507 ∧ x.d = 0x9159015a3070dd17 ∧
    x.e = 0xbd03f724be6075f9 ∧ x.f = 0x67332667ffc00b31 ∧ x.g = 0x8eb44a8768581511 ∧ x.h = 0xdb0c2e0d64f98fa7 := by
  decide +kernel

/-! ## The commands -/

/-- R101, the example: INIT after UPDATE "abc". -/
theorem test_init_in_the_middle :
    nextOf (exec .init { State.reset with buf := abc, len := 3, phase := .accum, rspOut := [0x00] }) =
      some { State.reset with rspOut := [0x00, 0x00] } := by decide +kernel

/-- R102, the example: UPDATE "abc" in the Fresh state. -/
theorem test_update_abc :
    nextOf (exec (.update abc) State.reset) =
      some { State.reset with buf := abc, len := 3, phase := .accum, rspOut := [0x00] } := by decide +kernel

/-- T4: the byte that fills BUF compresses it: UPDATE of the 128th byte 61. -/
theorem test_update_fills_block :
    (nextOf (exec (.update [0x61]) (holding 127))).map (fun t => (t.H, t.buf)) =
      some (#v[0x91041f93c7c2e25c, 0x37d9fabfbb830723, 0x17339410cb8bbb2f, 0xa170bb5bb5276a67,
        0xd6357de121728231, 0xbe53cdefe6337828, 0xab890c97626558c4, 0x50efa72bdd496605], []) := by decide +kernel

/-- R108, the example (T2): FINALIZE after UPDATE "abc" answers 00 and the digest, and the context is Fresh. -/
theorem test_finalize_abc :
    (nextOf (exec .finalize { State.reset with buf := abc, len := 3, phase := .accum })).map
        (fun t => (t.rspOut, t.H, t.buf, t.len, t.phase)) =
      some (([0x00, 0xcb, 0x00, 0x75, 0x3f, 0x45, 0xa3, 0x5e, 0x8b, 0xb5, 0xa0, 0x3d, 0x69, 0x9a, 0xc6, 0x50, 0x07] ++
        [0x27, 0x2c, 0x32, 0xab, 0x0e, 0xde, 0xd1, 0x63, 0x1a, 0x8b, 0x60, 0x5a, 0x43, 0xff, 0x5b, 0xed] ++
        [0x80, 0x86, 0x07, 0x2b, 0xa1, 0xe7, 0xcc, 0x23, 0x58, 0xba, 0xec, 0xa1, 0x34, 0xc8, 0x25, 0xa7],
        iv, [], 0, Phase.fresh) : List Byte × Hash × List Byte × U128 × Phase) := by decide +kernel

/-- T5: the zeros and the length of the padded tail on both sides of the choice between one block and two. -/
theorem test_pad_lengths :
    padZeros 0 = 111 ∧ padZeros 111 = 0 ∧ padZeros 112 = 127 ∧ padZeros 127 = 112 ∧
    (pad (holding 111).buf 111).length = 128 ∧ (pad (holding 112).buf 112).length = 256 := by decide +kernel

/-- R105: N = 3 gives the block of "abc"; N = 112 ends in 03 80. T5: LEN = 2^64 gives 08 in the high half, LEN = 2^125
wraps to zeros. -/
theorem test_pad_bytes :
    pad abc 3 = abcBlock ∧ (pad (holding 112).buf 112).drop 253 = [0x00, 0x03, 0x80] ∧
    (pad [] 0x10000000000000000).drop 112 = List.replicate 7 0x00 ++ [0x08] ++ List.replicate 8 0x00 ∧
    (pad [] (BitVec.ofNat 128 (2 ^ 125))).drop 112 = List.replicate 16 0x00 := by decide +kernel

/-! ## Steps, faults and ports -/

/-- R124, the example (P5), after its UPDATE "abc": the illegal header and the FINALIZE behind it. -/
theorem test_fault_entry_p5 :
    nextOf (step { State.reset with
        buf := abc, len := 3, phase := .accum, rspOut := [0x00]
        rxq := [0x00, 0x00, 0x00, 0x00, 0x03, 0x00, 0x00, 0x00] }) =
      some { State.reset with
        buf := abc, len := 3, phase := .accum, fault := true, fcause := 1, rspOut := [0x00, 0x01] } := by
  decide +kernel

/-- R125: INIT does not clear FAULT; R126: a hardware reset does. -/
theorem test_fault_stays :
    faulted.receive [0x01, 0x00, 0x00, 0x00] = faulted ∧ onEvent .engine faulted = faulted ∧
    faulted.hwReset = { State.reset with rspOut := [0x00, 0x02] } := by decide +kernel

/-- withFetchWord: the next step after reset runs the word's command. -/
theorem test_withFetchWord :
    nextOf (step (State.reset.withFetchWord 32 0x01000000)) = some { State.reset with rspOut := [0x00] } ∧
    nextOf (step (State.reset.withFetchWord 56 0x63626102000003)) = nextOf (exec (.update abc) State.reset) := by
  decide +kernel

/-! ## The assembler -/

/-- R72, R70: INIT with a comment, UPDATE "abc" and its hexadecimal spelling, the empty operand. -/
theorem test_assemble :
    assemble [['I', 'N', 'I', 'T', ' ', ';', 'x']] = some [0x01, 0x00, 0x00, 0x00] ∧
    assemble [['U', 'P', 'D', 'A', 'T', 'E', ' ', quoteMark, 'a', 'b', 'c', quoteMark], ['S', 'U', 'M']] =
      some [0x02, 0x00, 0x00, 0x03, 0x61, 0x62, 0x63, 0x03, 0x00, 0x00, 0x00] ∧
    assemble [['U', 'P', 'D', 'A', 'T', 'E', ' ', 'h', quoteMark, '6', '1', '6', '2', '6', '3', quoteMark]] =
      some [0x02, 0x00, 0x00, 0x03, 0x61, 0x62, 0x63] ∧
    assemble [['U', 'P', 'D', 'A', 'T', 'E', ' ', quoteMark, quoteMark]] = some [0x02, 0x00, 0x00, 0x00] := by
  decide +kernel

/-- R70 admits no operand for INIT, one for UPDATE, and two digits per byte. -/
theorem test_assemble_malformed :
    asmLine ['I', 'N', 'I', 'T', ' ', quoteMark, quoteMark] = .malformed ∧
    asmLine ['U', 'P', 'D', 'A', 'T', 'E'] = .malformed ∧
    asmLine ['U', 'P', 'D', 'A', 'T', 'E', ' ', 'h', quoteMark, '6', quoteMark] = .malformed := by decide +kernel

/-! ## Witnesses: the hypotheses of the statements can be met -/

/-- RotateAndShiftMoveBits, ChooseAndMajoritySelectBits, SigmaFunctionsByBit: the ends of the ranges of n and i, where a
bit wraps round. -/
theorem test_RotateAndShiftMoveBits_bounds :
    (1 ≤ 1 ∧ 1 ≤ 63 ∧ (rotr 0x1 1).getLsbD 63 = (0x1 : Word).getLsbD ((63 + 1) % 64)) ∧
    (1 ≤ 63 ∧ 63 ≤ 63 ∧ (rotr 0x2 63).getLsbD 2 = (0x2 : Word).getLsbD ((2 + 63) % 64)) := by decide

theorem test_ChooseAndMajoritySelectBits_bounds :
    0 < 64 ∧ (ch 0x1 0x1 0x0).getLsbD 0 = true ∧ 63 < 64 ∧ (ch 0x1 0x1 0x8000000000000000).getLsbD 63 = true := by
  decide

theorem test_SigmaFunctionsByBit_bounds :
    57 < 64 ∧ (smallSigma0 0x1).getLsbD 57 = false ∧ 56 < 64 ∧ (smallSigma0 0x1).getLsbD 56 = true := by decide

/-- ParseLoadsBigEndianWords, CompressEqualsReference: a whole block; the last word read and the first one kept. -/
theorem test_ParseLoadsBigEndianWords_hypotheses :
    abcBlock.length = 128 ∧ 15 < 16 ∧ readW (parseBlock abcBlock Scratch.reset) 15 = 0x18 ∧
    16 ≤ 16 ∧ readW (parseBlock abcBlock Scratch.reset) 16 = 0 := by decide +kernel

theorem test_CompressEqualsReference_hypotheses : abcBlock.length = 128 := by decide +kernel

/-- ScheduleFollowsRecurrence: the ends of the range of t, and a state whose sixteen words are zero. -/
theorem test_ScheduleFollowsRecurrence_hypotheses :
    (16 ≤ 16 ∧ 16 ≤ 79) ∧ (16 ≤ 79 ∧ 79 ≤ 79) ∧ ∀ j < 16, readW Scratch.reset j = 0 := by decide

/-- DecodeReadsEncodedPacket, StepRunsDecodedCommand, PartOfPacketWaits: the longest payload. -/
theorem test_DecodeReadsEncodedPacket_hypotheses :
    (Instr.update (List.replicate 65535 0x61)).wf = true ∧ Instr.init.wf = true ∧ Instr.finalize.wf = true :=
  ⟨wf_replicate 65535 0x61, rfl, rfl⟩

theorem test_DecodedPacketIsItsEncoding_hypotheses :
    decode [0x02, 0x00, 0x00, 0x01, 0x61, 0x03] = .packet (.update [0x61]) [0x03] := by decide

/-- DecoderClassifiesInOrder: the longest queue without a header; each class is a row of T9 above. -/
theorem test_DecoderClassifiesInOrder_hypotheses :
    ([0x02, 0x00, 0x00] : List Byte).length < 4 ∧ decode [0x02, 0x00, 0x00] = .wait := by decide

theorem test_PartOfPacketWaits_hypotheses :
    (Instr.update abc).wf = true ∧ 0 < (encode (.update abc)).length ∧ 6 < (encode (.update abc)).length ∧
    3 < (encode .finalize).length := by decide

/-- InitReturnsContextToFresh, PhaseFollowsTransitionTable: a good Fresh state. -/
theorem test_InitReturnsContextToFresh_hypotheses : StateInv State.reset ∧ State.reset.phase = .fresh := by
  unfold StateInv; decide

/-- UpdateAbsorbsPayload, FinalizeAnswersDigestAndResets, PadFillsWholeBlocks, LengthFieldIsBigEndian: fill counts at the
bounds and on both sides of the choice. -/
theorem test_fill_count_hypotheses :
    (holding 0).buf.length ≤ 127 ∧ (holding 111).buf.length ≤ 111 ∧ ¬ (holding 112).buf.length ≤ 111 ∧
    (holding 127).buf.length ≤ 127 := by decide

/-- UpdateAbsorbsPayload: a payload that does not complete a block. -/
theorem test_UpdateAbsorbsPayload_no_block :
    ((holding 124).buf.length + abc.length) / 128 = 0 ∧ ((holding 125).buf.length + abc.length) / 128 = 1 := by
  decide +kernel

/-- PadFillsWholeBlocks: the largest length of which no bit is lost. -/
theorem test_PadFillsWholeBlocks_length : (BitVec.ofNat 128 (2 ^ 125 - 1)).toNat < 2 ^ 125 := by decide +kernel

theorem test_DigestBytesAreBigEndian_bounds :
    5 < 6 ∧ 7 < 8 ∧ (serialize iv)[8 * 5 + 7]? = some 0x11 ∧ (serialize iv)[0]? = some 0xcb := by decide +kernel

/-- LengthCarriesIntoHighHalf: a next state with a carry (R117, the example), and one without. -/
theorem test_LengthCarriesIntoHighHalf_hypotheses :
    ([0x61] : List Byte).length ≤ 65535 ∧
    (∃ t, exec (.update [0x61]) { State.reset with len := 0xffffffffffffffff } = .next t ∧
      t.len = 0x10000000000000000) ∧
    ∃ t, exec (.update [0x61]) State.reset = .next t ∧ t.len = 1 :=
  ⟨by decide, ⟨_, rfl, by decide⟩, ⟨_, rfl, by decide⟩⟩

theorem test_CommandsKeepFaultAndQueue_hypotheses :
    (∃ t, exec .init (holding 3) = .next t) ∧ (∃ t, exec (.update abc) (holding 3) = .next t) ∧
    ∃ t, exec .finalize (holding 3) = .next t :=
  ⟨⟨_, rfl⟩, ⟨_, rfl⟩, ⟨_, rfl⟩⟩

/-- ChunkingDoesNotMatter: two ways to cut "abc", an empty piece among them. -/
theorem test_ChunkingDoesNotMatter_hypotheses :
    ([[0x61], [], [0x62, 0x63]] : List (List Byte)).flatten = [abc].flatten := by decide

/-- SessionTracksItsMessage, FinalizeAnswersSha384, EveryHistoryKeepsInvariant: a session that has absorbed "abc". -/
theorem test_Absorbed_hypotheses :
    Absorbed [] State.reset ∧
    Absorbed abc { State.reset with buf := abc, len := 3, phase := .accum } ∧ abc.length < 2 ^ 125 ∧
    ∃ t, exec (.update abc) { State.reset with buf := abc, len := 3, phase := .accum } = .next t := by
  refine ⟨⟨rfl, rfl, rfl⟩, ⟨rfl, rfl, rfl⟩, by decide, ⟨_, rfl⟩⟩

/-- OneShotAnswersSha384, PacketsRunInOrder, DecodeFaultIsPrecise: an engine between packets in the middle of a message. -/
theorem test_between_packets_hypotheses :
    abc.length < 2 ^ 125 ∧ RunComplete (holding 3) ∧ (∀ i ∈ [Instr.update abc, .finalize], i.wf = true) ∧
    decode [0x00, 0x00, 0x00, 0x00] = .illegal .illegalOpcode [] ∧
    decode [0x01, 0x00, 0x00, 0x01] = .illegal .reservedNonzero [] := by
  unfold RunComplete; decide

/-- SecondFinalizeAnswersEmptyDigest, ReuseAfterFinalizeIsFresh. -/
theorem test_finalize_hypotheses : ∃ t, exec .finalize (holding 112) = .next t :=
  ⟨_, rfl⟩

/-- HiddenStateHasNoEffect: two different states that agree on all that is visible, with a step; and two faulted ones. -/
theorem test_HiddenStateHasNoEffect_hypotheses :
    SameVisible (receiving [0x01, 0x00, 0x00, 0x00]) { receiving [0x01, 0x00, 0x00, 0x00] with rspOut := [0x00] } ∧
    (∃ t, step (receiving [0x01, 0x00, 0x00, 0x00]) = .next t) ∧
    SameVisible faulted { faulted with rspOut := [] } ∧ ∃ f, step faulted = .fault f :=
  ⟨⟨⟨rfl, rfl, rfl, rfl⟩, rfl, rfl, rfl⟩, ⟨_, rfl⟩, ⟨⟨rfl, rfl, rfl, rfl⟩, rfl, rfl, rfl⟩, ⟨_, rfl⟩⟩

theorem test_StepRunsDecodedCommand_hypotheses :
    (receiving (encode (.update abc) ++ [0x03])).fault = false ∧ (Instr.update abc).wf = true ∧
    (receiving (encode (.update abc) ++ [0x03])).rxq = encode (.update abc) ++ [0x03] := by decide

theorem test_IncompletePacketHoldsState_hypotheses :
    State.reset.fault = false ∧ (Instr.update abc).wf = true ∧ 6 < (encode (.update abc)).length ∧
    (receiving ((encode (.update abc)).take 6)).rxq = (encode (.update abc)).take 6 := by decide

/-- IllegalHeaderTakesDecodeFault: each clause at its bounds, OPC 00, 04, 01 and 03, and a legal header. -/
theorem test_IllegalHeaderTakesDecodeFault_clauses :
    nextOf (step (receiving [0x00, 0x01, 0x00, 0x00])) =
      some { State.reset with fault := true, fcause := 1, rspOut := [0x01] } ∧
    nextOf (step (receiving [0x04, 0x00, 0x00, 0x00])) =
      some { State.reset with fault := true, fcause := 1, rspOut := [0x01] } ∧
    nextOf (step (receiving [0x01, 0x00, 0x00, 0x01])) =
      some { State.reset with fault := true, fcause := 2, rspOut := [0x02] } ∧
    nextOf (step (receiving [0x03, 0xff, 0x00, 0x00])) =
      some { State.reset with fault := true, fcause := 2, rspOut := [0x02] } ∧
    nextOf (step (receiving [0x02, 0x00, 0x00, 0x01])) = some (receiving [0x02, 0x00, 0x00, 0x01]) := by
  decide +kernel

theorem test_OneResponsePerPacket_hypotheses :
    (receiving (encode .init)).fault = false ∧ decode (receiving (encode .init)).rxq ≠ .wait ∧
    decode (receiving [0x00, 0x00, 0x00, 0x00]).rxq = .illegal .illegalOpcode [] := by decide

/-- FaultedEngineIsInert, OnlyHardwareResetClearsFault: a faulted engine, with events that hold no reset and with one. -/
theorem test_FaultedEngineIsInert_hypotheses :
    faulted.fault = true ∧ (∀ e ∈ [Event.engine, .host (.send 0x01), .host .read], e ≠ .host .hwReset) ∧
    (onEvents [Event.engine, .host (.send 0x01), .host .read] faulted).rspOut = [0x02] ∧
    (onEvents [Event.host .hwReset] faulted).fault = false := by decide

theorem test_HardwareResetGivesResetValues_hypotheses :
    ∃ r : State, r ≠ State.reset ∧ r = faulted.hwReset :=
  ⟨_, by decide, rfl⟩

/-- PortsQueueAndReadOnly: an engine with a response pending and a step to make, and with none pending. -/
theorem test_PortsQueueAndReadOnly_hypotheses :
    State.reset.fault = false ∧ faulted.fault = true ∧
    ({ receiving [0x01, 0x00, 0x00, 0x00] with rspOut := [0x00] } : State).rspOut ≠ [] ∧
    (∃ t, step { receiving [0x01, 0x00, 0x00, 0x00] with rspOut := [0x00] } = .next t) ∧
    faulted.rspOut = 0x00 :: [0x02] ∧ State.reset.rspOut = [] ∧
    decode (receiving [0x01, 0x00, 0x00, 0x00]).rxq ≠ .wait ∧ ∃ t, step (receiving [0x01, 0x00, 0x00, 0x00]) = .next t :=
  ⟨rfl, rfl, by decide, ⟨_, rfl⟩, rfl, rfl, by decide, ⟨_, rfl⟩⟩

/-- ScheduleDoesNotMatter: a history that sends the packet of INIT around a step, executes it and reads the response. -/
theorem test_ScheduleDoesNotMatter_hypotheses :
    let es : List Event := [.host (.send 0x01), .host (.send 0x00), .engine, .host (.send 0x00), .host (.send 0x00),
      .engine, .host .read]
    .host .hwReset ∉ es ∧ sentBytes es = [0x01, 0x00, 0x00, 0x00] ∧ readBytes es State.reset = [0x00] := by
  decide +kernel

/-- StepKeepsInvariant, EveryHistoryKeepsInvariant: a good state in the middle of a message with a packet to execute. -/
theorem test_StepKeepsInvariant_hypotheses :
    StateInv { holding 3 with rxq := encode .finalize } ∧
    ∃ t, step { holding 3 with rxq := encode .finalize } = .next t := by
  refine ⟨?_, ⟨_, rfl⟩⟩
  unfold StateInv; decide

/-- UpdatelPiecesJoinToOperand: an operand of one piece. -/
theorem test_UpdatelPiecesJoinToOperand_hypotheses :
    (List.replicate 65535 (0x00 : Byte)).length ≤ 65535 ∧ abc.length ≤ 65535 :=
  ⟨List.length_replicate.le, by decide⟩

theorem test_QuotedOperandGivesCharacterCodes_hypotheses :
    (∀ c ∈ [' ', ';', '~'], c.toNat < 128 ∧ c ≠ quoteMark) ∧ [' ', ';', '~'].length ≤ 65535 :=
  ⟨by simp [quoteMark], by simp⟩

end Sys2Proof.Tests
end

/-! # State proofs (family 10_state)

Rules about decoding, steps, commands and events that the statements on the state share, then the theorems that settle
those statements. -/

namespace Sys2Proof

/-! ## The packet of a well-formed command -/

/-- The length field of a header holds the payload length of every well-formed command (30_encoding.md R65). -/
theorem plenBytes_toNat {n : Nat} (h : n ≤ Config.maxPlen) :
    (BitVec.ofNat 8 (n / 256) ++ BitVec.ofNat 8 n).toNat = n := by
  have hn : n ≤ 65535 := h
  rw [plen_toNat, BitVec.toNat_ofNat, BitVec.toNat_ofNat]
  omega

/-- The legal UPDATE header with a given length field (R67). -/
theorem classify_update (p : BitVec 16) : classify ⟨0x02, 0x00, p⟩ = .update p.toNat := by
  simp [classify]

/-- The decoder reads a well-formed command back from its packet, whatever bytes follow (R61 to R65). -/
theorem decode_encode_append {i : Instr} (hwf : i.wf = true) (rest : List Byte) :
    decode (encode i ++ rest) = .packet i rest := by
  cases i with
  | init => rfl
  | finalize => rfl
  | update d =>
    have hd : d.length ≤ Config.maxPlen := of_decide_eq_true hwf
    have hbytes : encode (.update d) ++ rest =
        0x02 :: 0x00 :: BitVec.ofNat 8 (d.length / 256) :: BitVec.ofNat 8 d.length :: (d ++ rest) := rfl
    rw [hbytes, decode_header, classify_update, plenBytes_toNat hd]
    simp [takePayload]

/-- A packet has at least its header (R64). -/
theorem encode_length_pos (i : Instr) : 0 < (encode i).length := by
  simp [encode, encodeHeader]

end Sys2Proof

namespace Sys2Proof.Machine

/-! ## The four kinds of step, as equations -/

theorem step_of_faulted {s : State} (hf : s.fault = true) : step s = .fault (.inert s.fcause) := by
  simp [step, hf, stayInert]

theorem step_of_wait {s : State} (hf : s.fault = false) (hd : decode s.rxq = .wait) : step s = .next s := by
  simp [step, hf, hd, holdWaiting]

theorem step_of_illegal {s : State} {c : Cause} {rest : List Byte} (hf : s.fault = false)
    (hd : decode s.rxq = .illegal c rest) : step s = .next (s.enterFault c) := by
  simp [step, hf, hd, takeDecodeFault]

theorem step_of_packet {s : State} {i : Instr} {rest : List Byte} (hf : s.fault = false)
    (hd : decode s.rxq = .packet i rest) : step s = exec i (s.takePacket rest) := by
  simp [step, hf, hd]

/-! ## UPDATE in one equation -/

/-- All that UPDATE D does before it responds: LEN, PHASE, then the loop over D (41_streaming_context.md R102). -/
def absorbPayload (D : List Byte) (s : State) : State :=
  absorb D ((s.addLen D.length).setPhaseAfterUpdate D.length)

/-- An empty payload changes nothing (R103). -/
@[simp] theorem absorbPayload_nil (s : State) : absorbPayload [] s = s := by
  simp [absorbPayload, absorb, State.addLen, State.setPhaseAfterUpdate, phaseAfterUpdate]

/-- The meaning of UPDATE, with or without payload bytes. -/
theorem exec_update (D : List Byte) (s : State) :
    exec (.update D) s = .next ((absorbPayload D s).respond [statusOk]) := by
  cases D with
  | nil => rw [absorbPayload_nil, exec_update_nil]
  | cons d D => exact exec_update_cons d D s

/-- What UPDATE does to the registers that its loop leaves alone. -/
theorem absorbPayload_frame (D : List Byte) (s : State) :
    (absorbPayload D s).len = s.len + BitVec.ofNat 128 D.length ∧
    (absorbPayload D s).phase = phaseAfterUpdate D.length s.phase ∧ (absorbPayload D s).fault = s.fault ∧
    (absorbPayload D s).fcause = s.fcause ∧ (absorbPayload D s).rxq = s.rxq ∧
    (absorbPayload D s).rspOut = s.rspOut :=
  absorb_frame D ((s.addLen D.length).setPhaseAfterUpdate D.length)

/-- UPDATE compresses the whole blocks of BUF ++ D and keeps the rest in BUF (R102, R104). -/
theorem absorbPayload_blocks (D : List Byte) {s : State} (h : s.buf.length ≤ 127) :
    (absorbPayload D s).H = foldBlocks compress s.H ((s.buf.length + D.length) / 128) (s.buf ++ D) ∧
    (absorbPayload D s).buf = (s.buf ++ D).drop (128 * ((s.buf.length + D.length) / 128)) := by
  obtain ⟨hH, hbuf, -, -⟩ := absorb_spec D ((s.addLen D.length).setPhaseAfterUpdate D.length) h
  exact ⟨hH, hbuf⟩

/-! ## Commands and the ports: nothing a command does depends on RXQ or on the responses already pending -/

/-- The same engine with other bytes on its two ports: `q` in RXQ and `o` pending on RSP_OUT. -/
def State.withPorts (q o : List Byte) (s : State) : State :=
  { s with rxq := q, rspOut := o }

theorem absorbByte_withPorts (q o : List Byte) (s : State) (d : Byte) :
    absorbByte (s.withPorts q o) d = (absorbByte s d).withPorts q o := by
  by_cases h : s.buf.length + 1 = 128
  · rw [absorbByte_full d h, absorbByte_full (s := s.withPorts q o) d h]; rfl
  · rw [absorbByte_short d h, absorbByte_short (s := s.withPorts q o) d h]; rfl

theorem absorb_withPorts (q o D : List Byte) (s : State) :
    absorb D (s.withPorts q o) = (absorb D s).withPorts q o := by
  induction D generalizing s with
  | nil => rfl
  | cons d D ih => exact (congrArg (absorb D) (absorbByte_withPorts q o s d)).trans (ih (absorbByte s d))

theorem compressTail_withPorts (q o P : List Byte) (s : State) :
    compressTail P (s.withPorts q o) = (compressTail P s).withPorts q o := by
  by_cases h : P.length = 256
  · simp only [compressTail, if_pos h]; rfl
  · simp only [compressTail, if_neg h]; rfl

theorem absorbPayload_withPorts (q o D : List Byte) (s : State) :
    absorbPayload D (s.withPorts q o) = (absorbPayload D s).withPorts q o :=
  absorb_withPorts q o D ((s.addLen D.length).setPhaseAfterUpdate D.length)

/-- No command touches FAULT or FCAUSE (10_state.md R38, 60_exceptions.md R120). -/
theorem exec_keeps_fault {i : Instr} {s t : State} (h : exec i s = .next t) :
    t.fault = s.fault ∧ t.fcause = s.fcause := by
  cases i with
  | init => cases h; exact ⟨rfl, rfl⟩
  | update D =>
    rw [exec_update] at h
    cases h
    obtain ⟨-, -, hfault, hfcause, -, -⟩ := absorbPayload_frame D s
    exact ⟨hfault, hfcause⟩
  | finalize =>
    cases h
    obtain ⟨-, -, -, -, hfault, hfcause, -, -⟩ := compressTail_spec (pad s.buf s.len) s
    exact ⟨hfault, hfcause⟩

/-- A command leaves RXQ and appends a response `r`, and it does the same, with the same response, whatever stands on the
two ports (30_encoding.md R68, 10_state.md R32). -/
theorem exec_response {i : Instr} {s t : State} (h : exec i s = .next t) :
    ∃ r, t.rxq = s.rxq ∧ t.rspOut = s.rspOut ++ r ∧
      ∀ q o, exec i (s.withPorts q o) = .next (t.withPorts q (o ++ r)) := by
  cases i with
  | init => cases h; exact ⟨[statusOk], rfl, rfl, fun _ _ => rfl⟩
  | update D =>
    rw [exec_update] at h
    cases h
    obtain ⟨-, -, -, -, hrxq, hrsp⟩ := absorbPayload_frame D s
    refine ⟨[statusOk], hrxq, congrArg (· ++ [statusOk]) hrsp, fun q o => ?_⟩
    rw [exec_update, absorbPayload_withPorts]
    rfl
  | finalize =>
    cases h
    obtain ⟨-, -, -, -, -, -, hrxq, hrsp⟩ := compressTail_spec (pad s.buf s.len) s
    refine ⟨statusOk :: serialize (compressTail (pad s.buf s.len) s).H, hrxq,
      congrArg (· ++ _) hrsp, fun q o => ?_⟩
    rw [exec_finalize, compressTail_withPorts]
    rfl

/-- A command leaves the bytes of later packets in RXQ (10_state.md R32). -/
theorem rxq_of_exec {i : Instr} {s t : State} (h : exec i s = .next t) : t.rxq = s.rxq := by
  obtain ⟨r, hrxq, -, -⟩ := exec_response h
  exact hrxq

/-- Every command completes (60_exceptions.md R120). -/
theorem exec_completes (i : Instr) (s : State) : ∃ t, exec i s = .next t := by
  cases i with
  | init => exact ⟨_, rfl⟩
  | update D => exact ⟨_, rfl⟩
  | finalize => exact ⟨_, rfl⟩

/-- A command executes alike with other bytes in RXQ. -/
theorem exec_takePacket {i : Instr} {s t : State} (h : exec i s = .next t) (q : List Byte) :
    exec i (s.takePacket q) = .next (t.takePacket q) := by
  obtain ⟨r, -, hrsp, hports⟩ := exec_response h
  have hexec := hports q s.rspOut
  rwa [← hrsp] at hexec

/-- An engine with FAULT = 0 always has a next state. -/
theorem step_completes {s : State} (hf : s.fault = false) : ∃ t, step s = .next t := by
  cases hd : decode s.rxq with
  | wait => exact ⟨s, step_of_wait hf hd⟩
  | illegal c rest => exact ⟨_, step_of_illegal hf hd⟩
  | packet i rest =>
    rw [step_of_packet hf hd]
    exact exec_completes i _

/-- The only fault of a step is the inert one of an engine with FAULT = 1. -/
theorem step_fault_inv {s : State} {f : Fault} (h : step s = .fault f) : s.fault = true ∧ f = .inert s.fcause := by
  cases hf : s.fault with
  | true =>
    rw [step_of_faulted hf] at h
    cases h
    exact ⟨rfl, rfl⟩
  | false =>
    obtain ⟨t, ht⟩ := step_completes hf
    rw [ht] at h
    cases h

/-! ## Commands on two engines with the same context -/

/-- The CTX of an engine after one absorbed byte depends on its CTX alone. -/
theorem absorbByte_sameContext {s t : State} (h : SameContext s t) (d : Byte) :
    SameContext (absorbByte s d) (absorbByte t d) := by
  obtain ⟨hH, hbuf, hlen, hphase⟩ := h
  by_cases hfull : t.buf.length + 1 = 128
  · rw [absorbByte_full (s := s) d (hbuf ▸ hfull), absorbByte_full d hfull]
    simp [SameContext, hH, hbuf, hlen, hphase]
  · rw [absorbByte_short (s := s) d (hbuf ▸ hfull), absorbByte_short d hfull]
    simp [SameContext, hH, hbuf, hlen, hphase]

theorem absorb_sameContext {s t : State} (h : SameContext s t) (D : List Byte) :
    SameContext (absorb D s) (absorb D t) := by
  induction D generalizing s t with
  | nil => exact h
  | cons d D ih => exact ih (absorbByte_sameContext h d)

theorem absorbPayload_sameContext {s t : State} (h : SameContext s t) (D : List Byte) :
    SameContext (absorbPayload D s) (absorbPayload D t) := by
  obtain ⟨hH, hbuf, hlen, hphase⟩ := h
  have hbegin : SameContext ((s.addLen D.length).setPhaseAfterUpdate D.length)
      ((t.addLen D.length).setPhaseAfterUpdate D.length) := ⟨hH, hbuf, by simp [hlen], by simp [hphase]⟩
  exact absorb_sameContext hbegin D

theorem sameContext_resetContext (s t : State) : SameContext s.resetContext t.resetContext :=
  ⟨rfl, rfl, rfl, rfl⟩

/-- The chaining value after FINALIZE's compressions depends on H and the padded tail alone. -/
theorem compressTail_H_congr (P : List Byte) {s t : State} (h : s.H = t.H) :
    (compressTail P s).H = (compressTail P t).H := by
  obtain ⟨hs, -⟩ := compressTail_spec P s
  obtain ⟨ht, -⟩ := compressTail_spec P t
  rw [hs, ht, h]

/-- A command gives two engines with the same context the same response and the same context (10_state.md R35). -/
theorem exec_sameContext {i : Instr} {s t s' : State} (hctx : SameContext s t) (h : exec i s = .next s') :
    ∃ t' r, exec i t = .next t' ∧ SameContext s' t' ∧ s'.rspOut = s.rspOut ++ r ∧ t'.rspOut = t.rspOut ++ r := by
  cases i with
  | init => cases h; exact ⟨_, [statusOk], rfl, sameContext_resetContext s t, rfl, rfl⟩
  | update D =>
    rw [exec_update] at h
    cases h
    obtain ⟨-, -, -, -, -, hs⟩ := absorbPayload_frame D s
    obtain ⟨-, -, -, -, -, ht⟩ := absorbPayload_frame D t
    exact ⟨_, [statusOk], exec_update D t, absorbPayload_sameContext hctx D, by simp [hs], by simp [ht]⟩
  | finalize =>
    cases h
    obtain ⟨hH, hbuf, hlen, -⟩ := hctx
    have hdigest : (compressTail (pad s.buf s.len) s).H = (compressTail (pad t.buf t.len) t).H := by
      rw [hbuf, hlen, compressTail_H_congr _ hH]
    obtain ⟨-, -, -, -, -, -, -, hs⟩ := compressTail_spec (pad s.buf s.len) s
    obtain ⟨-, -, -, -, -, -, -, ht⟩ := compressTail_spec (pad t.buf t.len) t
    exact ⟨_, statusOk :: serialize (compressTail (pad s.buf s.len) s).H, exec_finalize t,
      sameContext_resetContext _ _, by simp [hs], by simp [ht, hdigest]⟩

/-- Settles O30: by the three things a step can do; a command answers engines with the same context alike. -/
theorem hiddenStateHasNoEffect : Obligations.HiddenStateHasNoEffect := by
  intro s t hvis
  obtain ⟨hctx, hfault, hfcause, hrxq⟩ := hvis
  constructor
  · intro s' hs
    obtain ⟨hrun, hcase⟩ := step_cases hs
    have hrun' : t.fault = false := hfault ▸ hrun
    obtain ⟨hwait, rfl⟩ | ⟨c, rest, hill, rfl⟩ | ⟨i, rest, hpkt, hexec⟩ := hcase
    · exact ⟨t, [], step_of_wait hrun' (hrxq ▸ hwait), ⟨hctx, hfault, hfcause, hrxq⟩, by simp, by simp⟩
    · exact ⟨t.enterFault c, [statusOfCause c], step_of_illegal hrun' (hrxq ▸ hill), ⟨hctx, rfl, rfl, rfl⟩, rfl, rfl⟩
    · obtain ⟨t', r, hexec', hctx', hs', ht'⟩ :=
        exec_sameContext (s := s.takePacket rest) (t := t.takePacket rest) hctx hexec
      obtain ⟨hf, hc⟩ := exec_keeps_fault hexec
      obtain ⟨hf', hc'⟩ := exec_keeps_fault hexec'
      have hq : s'.rxq = rest := rxq_of_exec hexec
      have hq' : t'.rxq = rest := rxq_of_exec hexec'
      exact ⟨t', r, (step_of_packet hrun' (hrxq ▸ hpkt)).trans hexec',
        ⟨hctx', hf.trans (hfault.trans hf'.symm), hc.trans (hfcause.trans hc'.symm), hq.trans hq'.symm⟩, hs', ht'⟩
  · intro f hs
    obtain ⟨hstop, rfl⟩ := step_fault_inv hs
    rw [step_of_faulted (hfault ▸ hstop), hfcause]

/-! ## The invariant (10_state.md R33) -/

theorem stateInv_reset : StateInv State.reset :=
  ⟨by decide, rfl, fun _ => ⟨rfl, rfl, rfl⟩, fun _ => rfl, nofun⟩

theorem stateInv_hwReset (s : State) : StateInv s.hwReset :=
  ⟨by simp, rfl, fun _ => ⟨rfl, rfl, rfl⟩, fun _ => rfl, nofun⟩

/-- The parts of the invariant that speak of the context (10_state.md R33 I-a, I-b, I-d). -/
def ContextInv (s : State) : Prop :=
  s.buf.length ≤ 127 ∧ s.buf.length = s.len.toNat % 128 ∧
  (s.phase = .fresh → s.H = iv ∧ s.buf = [] ∧ s.len = 0)

/-- The rest of the invariant: FCAUSE and RXQ go with FAULT (R26, R125). -/
def FaultInv (s : State) : Prop :=
  (s.fault = false → s.fcause = 0) ∧ (s.fault = true → (s.fcause = 1 ∨ s.fcause = 2) ∧ s.rxq = [])

theorem stateInv_iff (s : State) : StateInv s ↔ ContextInv s ∧ FaultInv s := by
  simp only [StateInv, ContextInv, FaultInv, and_assoc]

/-- The return to Fresh of INIT and FINALIZE has the invariant (R101, R108). -/
theorem contextInv_resetContext (s : State) : ContextInv s.resetContext :=
  ⟨by simp, rfl, fun _ => ⟨rfl, rfl, rfl⟩⟩

theorem phaseAfterUpdate_eq_fresh {n : Nat} {p : Phase} :
    phaseAfterUpdate n p = .fresh ↔ n = 0 ∧ p = .fresh := by
  cases n with
  | zero => simp [phaseAfterUpdate]
  | succ n => simp [phaseAfterUpdate]

/-- UPDATE keeps N below a block and in step with LEN (R102, R117: LEN wraps at a multiple of the block length). -/
theorem contextInv_absorbPayload {s : State} (h : ContextInv s) (D : List Byte) : ContextInv (absorbPayload D s) := by
  obtain ⟨hmax, hmod, hfresh⟩ := h
  obtain ⟨hlen, hphase, -, -, -, -⟩ := absorbPayload_frame D s
  obtain ⟨-, hbuf⟩ := absorbPayload_blocks D hmax
  have hN : (absorbPayload D s).buf.length = (s.buf.length + D.length) % 128 := by
    rw [hbuf, List.length_drop, List.length_append]
    omega
  refine ⟨by omega, ?_, fun hp => ?_⟩
  · rw [hN, hlen, hmod]
    simp
  · rw [hphase] at hp
    obtain ⟨hD, hfr⟩ := phaseAfterUpdate_eq_fresh.mp hp
    rw [List.eq_nil_of_length_eq_zero hD, absorbPayload_nil]
    exact hfresh hfr

theorem exec_keeps_contextInv {i : Instr} {s t : State} (hinv : ContextInv s) (h : exec i s = .next t) :
    ContextInv t := by
  cases i with
  | init => cases h; exact contextInv_resetContext s
  | update D =>
    rw [exec_update] at h
    cases h
    exact contextInv_absorbPayload hinv D
  | finalize => cases h; exact contextInv_resetContext _

/-- Fault entry latches cause 1 or 2 and empties RXQ (60_exceptions.md R124). -/
theorem faultInv_enterFault (c : Cause) (s : State) : FaultInv (s.enterFault c) :=
  ⟨nofun, fun _ => ⟨by cases c <;> simp [causeCode], rfl⟩⟩

/-- Settles O41: by the three things a step can do, each with its effect on the context and on FAULT. -/
theorem stepKeepsInvariant : Obligations.StepKeepsInvariant := by
  intro s t hinv hstep
  rw [stateInv_iff] at hinv ⊢
  obtain ⟨hctx, hfaultInv⟩ := hinv
  obtain ⟨hrun, ⟨-, rfl⟩ | ⟨c, rest, -, rfl⟩ | ⟨i, rest, -, hexec⟩⟩ := step_cases hstep
  · exact ⟨hctx, hfaultInv⟩
  · exact ⟨hctx, faultInv_enterFault c s⟩
  · obtain ⟨hf, hc⟩ := exec_keeps_fault hexec
    have ht : t.fault = false := hf.trans hrun
    exact ⟨exec_keeps_contextInv (s := s.takePacket rest) hctx hexec,
      fun _ => hc.trans (hfaultInv.1 hrun), fun h => absurd (ht.symm.trans h) nofun⟩

/-- Settles O40: the reset values are Fresh with an empty BUF. -/
theorem invariantHoldsAtReset : Obligations.InvariantHoldsAtReset :=
  stateInv_reset

/-- Settles O22: a command's frame, and the response it appends. -/
theorem commandsKeepFaultAndQueue : Obligations.CommandsKeepFaultAndQueue := by
  intro i s t h
  obtain ⟨hfault, hfcause⟩ := exec_keeps_fault h
  obtain ⟨r, hrxq, hrsp, -⟩ := exec_response h
  exact ⟨hfault, hfcause, hrxq, by simp [hrsp]⟩

/-! ## The absorbed message (10_state.md R33 I-c) -/

/-- Folding a + b blocks is folding a, then b from where the first fold ends. -/
theorem foldBlocks_add (f : Hash → List Byte → Hash) (S : Hash) (a b : Nat) (P : List Byte) :
    foldBlocks f S (a + b) P = foldBlocks f (foldBlocks f S a P) b (P.drop (128 * a)) := by
  induction a generalizing S P with
  | zero => simp [foldBlocks]
  | succ a ih => rw [Nat.succ_add, foldBlocks, ih, foldBlocks, List.drop_drop, Nat.mul_succ, Nat.add_comm 128]

theorem absorbed_nil_of_fresh {s : State} (hH : s.H = iv) (hbuf : s.buf = []) (hlen : s.len = 0) : Absorbed [] s :=
  ⟨hH, hbuf, by simp [hlen]⟩

theorem absorbed_nil_resetContext (s : State) : Absorbed [] s.resetContext :=
  absorbed_nil_of_fresh rfl rfl rfl

/-- UPDATE D extends the absorbed message by D (41_streaming_context.md R104): the whole blocks of M ++ D are those of M,
then those of M's rest and D. -/
theorem absorbed_absorbPayload {M : List Byte} {s : State} (h : Absorbed M s) (D : List Byte) :
    Absorbed (M ++ D) (absorbPayload D s) := by
  obtain ⟨hH, hbuf, hlen⟩ := h
  have hN : s.buf.length = M.length % 128 := by
    rw [hbuf, List.length_drop]
    omega
  obtain ⟨hlen', -⟩ := absorbPayload_frame D s
  obtain ⟨hH', hbuf'⟩ := absorbPayload_blocks D (s := s) (by omega)
  have hwhole : 128 * (M.length / 128) ≤ M.length := Nat.mul_div_le _ _
  have hrest : s.buf ++ D = (M ++ D).drop (128 * (M.length / 128)) := by
    rw [hbuf, List.drop_append_of_le_length hwhole]
  have hblocks : (M ++ D).length / 128 = M.length / 128 + (s.buf.length + D.length) / 128 := by
    rw [hN, List.length_append]
    omega
  refine ⟨?_, ?_, ?_⟩
  · rw [hH', hH, hrest, hblocks, foldBlocks_add, foldBlocks_append _ _ _ _ _ hwhole]
  · rw [hbuf', hrest, hblocks, List.drop_drop, Nat.mul_add]
  · rw [hlen']
    simp [hlen]

/-- Settles O25: three returns to Fresh, and UPDATE's whole blocks. -/
theorem sessionTracksItsMessage : Obligations.SessionTracksItsMessage := by
  refine ⟨fun s t h => ?_, fun s t h => ?_, fun s => absorbed_nil_of_fresh rfl rfl rfl, fun M D s t hM h => ?_⟩
  · cases h
    exact absorbed_nil_resetContext s
  · cases h
    exact absorbed_nil_resetContext _
  · rw [exec_update] at h
    cases h
    exact absorbed_absorbPayload hM D

/-! ## What the ports do between steps -/

/-- With FAULT = 0 an arriving byte joins RXQ (10_state.md R32). -/
theorem receiveByte_running {s : State} (b : Byte) (h : s.fault = false) :
    s.receiveByte b = s.takePacket (s.rxq ++ [b]) :=
  receive_running [b] h

theorem receive_faulted (bs : List Byte) {s : State} (h : s.fault = true) : s.receive bs = s := by
  induction bs with
  | nil => rfl
  | cons b bs ih => rw [receive_cons, receiveByte_faulted b h, ih]

/-- Reading a pending byte before a step or after it gives the same state (70_reset_and_hazards.md R153). -/
theorem step_readResponse {s t : State} (hpend : s.rspOut ≠ []) (h : step s = .next t) :
    step s.readResponse = .next t.readResponse := by
  obtain ⟨hrun, ⟨hwait, rfl⟩ | ⟨c, rest, hill, rfl⟩ | ⟨i, rest, hpkt, hexec⟩⟩ := step_cases h
  · exact step_of_wait (s := t.readResponse) hrun hwait
  · rw [step_of_illegal (s := s.readResponse) hrun hill]
    simp [State.enterFault, State.readResponse, List.tail_append_of_ne_nil hpend]
  · obtain ⟨r, hrxq, hrsp, hports⟩ := exec_response hexec
    rw [step_of_packet (s := s.readResponse) hrun hpkt]
    have hread : t.readResponse = t.withPorts rest (s.rspOut.tail ++ r) := by
      obtain rfl : t.rxq = rest := hrxq
      rw [State.readResponse, hrsp, State.takePacket_rspOut, List.tail_append_of_ne_nil hpend]
      rfl
    rw [hread]
    exact hports rest s.rspOut.tail

/-- A byte that arrives before the step of a complete packet or after it gives the same state (10_state.md R32,
60_exceptions.md R124, R125). -/
theorem step_receiveByte {s t : State} (b : Byte) (hd : decode s.rxq ≠ .wait) (h : step s = .next t) :
    step (s.receiveByte b) = .next (t.receiveByte b) := by
  obtain ⟨hrun, ⟨hwait, rfl⟩ | ⟨c, rest, hill, rfl⟩ | ⟨i, rest, hpkt, hexec⟩⟩ := step_cases h
  · exact absurd hwait hd
  · rw [receiveByte_running b hrun, receiveByte_faulted b (State.enterFault_fault c s),
      step_of_illegal (s := s.takePacket (s.rxq ++ [b])) hrun ((decode_append b).1 c rest hill)]
    rfl
  · have hrun' : t.fault = false := (exec_keeps_fault hexec).1.trans hrun
    rw [receiveByte_running b hrun, receiveByte_running b hrun', rxq_of_exec hexec,
      step_of_packet (s := s.takePacket (s.rxq ++ [b])) hrun ((decode_append b).2 i rest hpkt)]
    exact exec_takePacket hexec (rest ++ [b])

/-- Settles O39: the two ports on their own, then each act of HOST against a step. -/
theorem portsQueueAndReadOnly : Obligations.PortsQueueAndReadOnly := by
  refine ⟨fun s bs h => receive_running bs h, fun s bs h => receive_faulted bs h, fun s b bs h => ?_, fun s h => ?_,
    fun s t => step_readResponse, fun s t b => step_receiveByte b⟩
  · rw [State.readResponse, h, List.tail_cons]
  · rw [State.readResponse, h, List.tail_nil, ← h]

/-! ## Histories -/

/-- What holds of a state and is kept by every event holds after every history. -/
theorem onEvents_induction {P : State → Prop} (hkeep : ∀ e s, P s → P (onEvent e s)) (es : List Event) {s : State}
    (h : P s) : P (onEvents es s) := by
  induction es generalizing s with
  | nil => exact h
  | cons e es ih => exact ih (hkeep e s h)

/-- What every step that answers a next state keeps is kept by an engine event: an inert engine keeps its state. -/
theorem onEvent_engine_induction {P : State → Prop} {s : State} (hstep : ∀ t, step s = .next t → P t) (h : P s) :
    P (onEvent .engine s) := by
  cases hs : step s with
  | next t => simpa only [onEvent, hs] using hstep t hs
  | fault f => simpa only [onEvent, hs] using h
  | refused r => simpa only [onEvent, hs] using h

/-- An arriving byte touches RXQ alone, and that only while FAULT = 0. -/
theorem stateInv_receiveByte {s : State} (b : Byte) (h : StateInv s) : StateInv (s.receiveByte b) := by
  cases hf : s.fault with
  | true => rwa [receiveByte_faulted b hf]
  | false =>
    obtain ⟨hmax, hmod, hfresh, hcause, -⟩ := h
    rw [receiveByte_running b hf]
    exact ⟨hmax, hmod, hfresh, hcause, fun ht => absurd (hf.symm.trans ht) nofun⟩

theorem onEvent_keeps_stateInv (e : Event) (s : State) (h : StateInv s) : StateInv (onEvent e s) := by
  match e with
  | .engine => exact onEvent_engine_induction (fun t => stepKeepsInvariant s t h) h
  | .host (.send b) => exact stateInv_receiveByte b h
  | .host .read => exact h
  | .host .hwReset => exact stateInv_hwReset s

/-- A command leaves a session that has absorbed some message, if it began with one. -/
theorem exec_keeps_absorbed {i : Instr} {s t : State} (hM : ∃ M, Absorbed M s) (h : exec i s = .next t) :
    ∃ M, Absorbed M t := by
  obtain ⟨hinit, hfinalize, -, hupdate⟩ := sessionTracksItsMessage
  obtain ⟨M, hM⟩ := hM
  cases i with
  | init => exact ⟨[], hinit s t h⟩
  | update D => exact ⟨M ++ D, hupdate M D s t hM h⟩
  | finalize => exact ⟨[], hfinalize s t h⟩

theorem step_keeps_absorbed {s t : State} (hM : ∃ M, Absorbed M s) (h : step s = .next t) : ∃ M, Absorbed M t := by
  obtain ⟨-, ⟨-, rfl⟩ | ⟨c, rest, -, rfl⟩ | ⟨i, rest, -, hexec⟩⟩ := step_cases h
  · exact hM
  · exact hM
  · exact exec_keeps_absorbed (s := s.takePacket rest) hM hexec

theorem absorbed_receiveByte {M : List Byte} {s : State} (b : Byte) (h : Absorbed M s) :
    Absorbed M (s.receiveByte b) := by
  cases hf : s.fault with
  | true => rwa [receiveByte_faulted b hf]
  | false => rwa [receiveByte_running b hf]

theorem onEvent_keeps_absorbed (e : Event) (s : State) (hM : ∃ M, Absorbed M s) : ∃ M, Absorbed M (onEvent e s) := by
  match e with
  | .engine => exact onEvent_engine_induction (fun t => step_keeps_absorbed hM) hM
  | .host (.send b) => exact hM.imp fun M => absorbed_receiveByte b
  | .host .read => exact hM
  | .host .hwReset => exact ⟨[], absorbed_nil_of_fresh rfl rfl rfl⟩

/-- Settles O42, from the two invariants of one event. -/
theorem everyHistoryKeepsInvariant : Obligations.EveryHistoryKeepsInvariant := by
  intro es s M hinv hM
  exact ⟨onEvents_induction onEvent_keeps_stateInv es hinv, onEvents_induction onEvent_keeps_absorbed es ⟨M, hM⟩⟩

/-! ## Runs of packets -/

/-- An engine event on a complete packet executes it and leaves what follows in RXQ. -/
theorem onEvent_engine_packet {i : Instr} {s t : State} (hf : s.fault = false) (hwf : i.wf = true)
    (h : exec i s = .next t) (rest : List Byte) :
    onEvent .engine (s.takePacket (encode i ++ rest)) = t.takePacket rest := by
  have hstep : step (s.takePacket (encode i ++ rest)) = .next (t.takePacket rest) :=
    (step_of_packet (s := s.takePacket (encode i ++ rest)) hf (decode_encode_append hwf rest)).trans
      (exec_takePacket h rest)
  simp only [onEvent, hstep]

/-- A list of commands always executes to its end, with FAULT as it was. -/
theorem execAll_completes (is : List Instr) (s : State) :
    ∃ t, execAll is s = some t ∧ t.fault = s.fault ∧ t.rxq = s.rxq := by
  induction is generalizing s with
  | nil => exact ⟨s, rfl, rfl, rfl⟩
  | cons i is ih =>
    obtain ⟨u, hu⟩ := exec_completes i s
    obtain ⟨t, ht, hfault, hrxq⟩ := ih u
    refine ⟨t, ?_, hfault.trans (exec_keeps_fault hu).1, hrxq.trans (rxq_of_exec hu)⟩
    simp only [execAll, hu, ht]

/-- With the packets of a list of commands at the front of RXQ, as many steps execute the list and leave the bytes behind
them (10_state.md R32, 70_reset_and_hazards.md R148). -/
theorem runSteps_packets (is : List Instr) {s t : State} (hf : s.fault = false) (hwf : ∀ i ∈ is, i.wf = true)
    (h : execAll is s = some t) (n : Nat) (later : List Byte) :
    runSteps (is.length + n) (s.takePacket (encodeAll is ++ later)) = runSteps n (t.takePacket later) := by
  induction is generalizing s with
  | nil =>
    cases h
    rw [List.length_nil, Nat.zero_add]
    rfl
  | cons i is ih =>
    obtain ⟨u, hu⟩ := exec_completes i s
    have hrest : execAll is u = some t := by simpa only [execAll, hu] using h
    have hbytes : encodeAll (i :: is) ++ later = encode i ++ (encodeAll is ++ later) := by
      simp [encodeAll]
    have hsteps : (i :: is).length + n = (is.length + n) + 1 := by
      simp only [List.length_cons]
      omega
    rw [hbytes, hsteps, runSteps, onEvent_engine_packet hf (hwf i List.mem_cons_self) hu]
    exact ih ((exec_keeps_fault hu).1.trans hf) (fun j hj => hwf j (List.mem_cons_of_mem i hj)) hrest

/-- There are at least as many bytes as packets, so that drive makes enough steps. -/
theorem length_le_encodeAll (is : List Instr) : is.length ≤ (encodeAll is).length := by
  induction is with
  | nil => exact Nat.le_refl 0
  | cons i is ih =>
    have hpos := encode_length_pos i
    rw [encodeAll, List.flatMap_cons, List.length_append, List.length_cons]
    rw [encodeAll] at ih
    omega

/-- The bytes sent to an engine between packets are its whole RXQ. -/
theorem receive_of_runComplete {s : State} (h : RunComplete s) (bs : List Byte) : s.receive bs = s.takePacket bs := by
  obtain ⟨hf, hempty⟩ := h
  rw [receive_running bs hf, hempty, List.nil_append]
  rfl

/-- Settles O43: the packets' steps, then the engine waits for the steps that drive has left. -/
theorem packetsRunInOrder : Obligations.PacketsRunInOrder := by
  intro is s hs hwf
  have hreceive := receive_of_runComplete hs (encodeAll is)
  obtain ⟨hf, hempty⟩ := hs
  obtain ⟨t, ht, hft, hqt⟩ := execAll_completes is s
  have hft' : t.fault = false := hft.trans hf
  have hqt' : t.rxq = [] := hqt.trans hempty
  refine ⟨t, ht, ?_, hft', hqt'⟩
  obtain ⟨n, hn⟩ := Nat.exists_eq_add_of_le (length_le_encodeAll is)
  have hwait : step t = .next t := step_of_wait hft' (by rw [hqt']; rfl)
  have hend : t.takePacket [] = t := by
    rw [← hqt']
    rfl
  calc drive (encodeAll is) s
      = runSteps (is.length + n) (s.takePacket (encodeAll is ++ [])) := by
        rw [drive, hreceive, State.takePacket_rxq, List.append_nil, hn]
    _ = runSteps n (t.takePacket []) := runSteps_packets is hf hwf ht n []
    _ = runSteps n t := by rw [hend]
    _ = t := runSteps_waiting hwait n

/-! ## The ROM -/

/-- Reading K[t] for every t below the ROM's size gives the ROM. -/
theorem map_kAt_range : (List.range kRom.length).map kAt = kRom := by
  apply List.ext_getElem
  · simp
  · intro t h1 h2
    simp [kAt, h2]

/-- Settles O48: the ROM, read in order, is the table as R27 writes it. -/
theorem roundConstantsAreTheTable : Obligations.RoundConstantsAreTheTable :=
  map_kAt_range

end Sys2Proof.Machine

/-! # Memory proofs (family 20_memory)

The ports and the schedule of a history, the byte orders (20_memory.md R42, R43), and the registers of the Compression
Core against the reference without registers. -/

namespace Sys2Proof

/-- A packet takes bytes from RXQ (30_encoding.md R64). -/
theorem length_of_decode_packet {q rest : List Byte} {i : Instr} (h : decode q = .packet i rest) :
    rest.length < q.length := by
  match q with
  | [] | [_] | [_, _] | [_, _, _] => exact nomatch h
  | b0 :: b1 :: b2 :: b3 :: tail =>
    rw [decode_header] at h
    obtain ⟨-, -, rfl⟩ | ⟨-, -, rfl⟩ | ⟨n, -, -, -, rfl⟩ := takePayload_packet h
    · simp only [List.length_cons]; omega
    · simp only [List.length_cons]; omega
    · simp only [List.length_cons, List.length_drop]; omega

/-- What no longer waits does not wait once another byte has arrived (R64). -/
theorem decode_append_ne_wait {q : List Byte} (b : Byte) (h : decode q ≠ .wait) : decode (q ++ [b]) ≠ .wait := by
  obtain ⟨hillegal, hpacket⟩ := decode_append (q := q) b
  cases hd : decode q with
  | wait => exact absurd hd h
  | illegal c rest => simp [hillegal c rest hd]
  | packet i rest => simp [hpacket i rest hd]

end Sys2Proof

namespace Sys2Proof.Machine

/-! ## An engine event, and how many of them bring the engine to rest -/

theorem onEvent_engine_of_next {s t : State} (h : step s = .next t) : onEvent .engine s = t := by
  simp only [onEvent, h]

theorem onEvent_engine_of_faulted {s : State} (h : s.fault = true) : onEvent .engine s = s := by
  simp only [onEvent, step_of_faulted h]

/-- An engine event either finds the engine at rest or is a step that consumes bytes of a packet or of an illegal
header. -/
theorem onEvent_engine_cases (s : State) :
    onEvent .engine s = s ∨
    ∃ t, step s = .next t ∧ decode s.rxq ≠ .wait ∧ t.rxq.length < s.rxq.length := by
  cases hf : s.fault with
  | true => exact .inl (onEvent_engine_of_faulted hf)
  | false =>
    cases hd : decode s.rxq with
    | wait => exact .inl (onEvent_engine_of_next (step_of_wait hf hd))
    | illegal c rest =>
      have hne : s.rxq ≠ [] := fun h => by simp [h, decode] at hd
      exact .inr ⟨_, step_of_illegal hf hd, nofun, List.length_pos_iff.mpr hne⟩
    | packet i rest =>
      obtain ⟨t, ht⟩ := exec_completes i (s.takePacket rest)
      refine .inr ⟨t, (step_of_packet hf hd).trans ht, nofun, ?_⟩
      rw [rxq_of_exec ht]
      exact length_of_decode_packet hd

theorem runSteps_of_fixed {s : State} (h : onEvent .engine s = s) (n : Nat) : runSteps n s = s := by
  induction n with
  | zero => rfl
  | succ n ih => rw [runSteps, h, ih]

/-- As many steps as RXQ holds bytes bring the engine to rest: any two such numbers of steps end in the same state. -/
theorem runSteps_eq_of_length_le {s : State} {m n : Nat} (hm : s.rxq.length ≤ m) (hn : s.rxq.length ≤ n) :
    runSteps m s = runSteps n s := by
  induction m generalizing s n with
  | zero =>
    obtain hfix | ⟨t, -, -, hlt⟩ := onEvent_engine_cases s
    · rw [runSteps_of_fixed hfix, runSteps_of_fixed hfix]
    · omega
  | succ m ih =>
    obtain hfix | ⟨t, ht, -, hlt⟩ := onEvent_engine_cases s
    · rw [runSteps_of_fixed hfix, runSteps_of_fixed hfix]
    · obtain ⟨n, rfl⟩ : ∃ k, n = k + 1 := Nat.exists_eq_add_one.mpr (by omega)
      rw [runSteps, runSteps, onEvent_engine_of_next ht]
      exact ih (by omega) (by omega)

/-! ## Bytes that arrive around a step -/

/-- Bytes that arrive before the step of a complete packet or after it give the same state (10_state.md R32). -/
theorem step_receive {s t : State} (bs : List Byte) (hd : decode s.rxq ≠ .wait) (h : step s = .next t) :
    step (s.receive bs) = .next (t.receive bs) := by
  induction bs generalizing s t with
  | nil => exact h
  | cons b bs ih =>
    obtain ⟨hrun, -⟩ := step_cases h
    have hd' : decode (s.receiveByte b).rxq ≠ .wait := by
      rw [receiveByte_running b hrun]
      exact decode_append_ne_wait b hd
    exact ih hd' (step_receiveByte b hd h)

/-- A step before the bytes are sent makes no difference to the run they drive (20_memory.md R51). -/
theorem drive_onEvent_engine (C : List Byte) (s : State) : drive C (onEvent .engine s) = drive C s := by
  obtain hfix | ⟨t, ht, hd, -⟩ := onEvent_engine_cases s
  · rw [hfix]
  · have hstep : onEvent .engine (s.receive C) = t.receive C := onEvent_engine_of_next (step_receive C hd ht)
    have hle : (t.receive C).rxq.length ≤ (s.receive C).rxq.length := by
      obtain hfix | ⟨u, hu, -, hlt⟩ := onEvent_engine_cases (s.receive C)
      · rw [← hstep, hfix]
      · rw [← hstep, onEvent_engine_of_next hu]
        exact hlt.le
    rw [onEvent_engine_of_next ht]
    calc drive C t
        = runSteps (s.receive C).rxq.length (t.receive C) := runSteps_eq_of_length_le le_rfl hle
      _ = runSteps ((s.receive C).rxq.length + 1) (s.receive C) := by rw [runSteps, hstep]
      _ = drive C s := runSteps_eq_of_length_le (Nat.le_succ _) le_rfl

theorem drive_cons (b : Byte) (C : List Byte) (s : State) : drive (b :: C) s = drive C (s.receiveByte b) := rfl

/-! ## Responses already pending -/

/-- The same engine with the bytes `p` still pending on RSP_OUT in front of all others. -/
def State.withEarlier (p : List Byte) (s : State) : State :=
  { s with rspOut := p ++ s.rspOut }

/-- A read takes the first pending byte, if there is one (20_memory.md R40). -/
theorem readResponse_withEarlier (s : State) : s.readResponse.withEarlier (s.rspOut.take 1) = s := by
  simp [State.withEarlier, State.readResponse, ← List.drop_one]

theorem receiveByte_withEarlier (p : List Byte) (b : Byte) (s : State) :
    (s.withEarlier p).receiveByte b = (s.receiveByte b).withEarlier p := by
  cases hf : s.fault with
  | true => rw [receiveByte_faulted b hf, receiveByte_faulted (s := s.withEarlier p) b hf]
  | false => rw [receiveByte_running b hf, receiveByte_running (s := s.withEarlier p) b hf]; rfl

theorem receive_withEarlier (p bs : List Byte) (s : State) :
    (s.withEarlier p).receive bs = (s.receive bs).withEarlier p := by
  induction bs generalizing s with
  | nil => rfl
  | cons b bs ih => rw [receive_cons, receive_cons, receiveByte_withEarlier, ih]

/-- No step reads the pending responses (70_reset_and_hazards.md R153). -/
theorem step_withEarlier {s t : State} (p : List Byte) (h : step s = .next t) :
    step (s.withEarlier p) = .next (t.withEarlier p) := by
  obtain ⟨hrun, ⟨hwait, rfl⟩ | ⟨c, rest, hill, rfl⟩ | ⟨i, rest, hpkt, hexec⟩⟩ := step_cases h
  · exact step_of_wait (s := t.withEarlier p) hrun hwait
  · rw [step_of_illegal (s := s.withEarlier p) hrun hill]
    simp [State.enterFault, State.withEarlier]
  · obtain ⟨r, hrxq, hrsp, hports⟩ := exec_response hexec
    obtain rfl : t.rxq = rest := hrxq
    have ht : t.withEarlier p = t.withPorts t.rxq (p ++ s.rspOut ++ r) := by
      rw [State.withEarlier, hrsp, State.takePacket_rspOut, ← List.append_assoc]
      rfl
    rw [step_of_packet (s := s.withEarlier p) hrun hpkt, ht]
    exact hports t.rxq (p ++ s.rspOut)

theorem onEvent_engine_withEarlier (p : List Byte) (s : State) :
    onEvent .engine (s.withEarlier p) = (onEvent .engine s).withEarlier p := by
  cases hf : s.fault with
  | true => rw [onEvent_engine_of_faulted hf, onEvent_engine_of_faulted (s := s.withEarlier p) hf]
  | false =>
    obtain ⟨t, ht⟩ := step_completes hf
    rw [onEvent_engine_of_next ht, onEvent_engine_of_next (step_withEarlier p ht)]

theorem runSteps_withEarlier (p : List Byte) (n : Nat) (s : State) :
    runSteps n (s.withEarlier p) = (runSteps n s).withEarlier p := by
  induction n generalizing s with
  | zero => rfl
  | succ n ih => rw [runSteps, runSteps, onEvent_engine_withEarlier, ih]

/-- Pending responses stay in front of those of a run, and change nothing else in it. -/
theorem drive_withEarlier (p C : List Byte) (s : State) :
    drive C (s.withEarlier p) = (drive C s).withEarlier p := by
  rw [drive, drive, receive_withEarlier, runSteps_withEarlier]
  rfl

/-- A read before a run takes the first pending byte away from the run's responses, and no more. -/
theorem drive_readResponse (C : List Byte) (s : State) :
    drive C s = (drive C s.readResponse).withEarlier (s.rspOut.take 1) := by
  rw [← drive_withEarlier, readResponse_withEarlier]

theorem withEarlier_withEarlier (p r : List Byte) (s : State) :
    (s.withEarlier r).withEarlier p = s.withEarlier (p ++ r) := by
  simp [State.withEarlier]

/-- The run of the bytes of a history is the history itself, brought to rest, with the bytes that HOST has read in it
put back in front. -/
theorem drive_sentBytes (es : List Event) (s : State) (h : .host .hwReset ∉ es) :
    drive (sentBytes es) s = (drive [] (onEvents es s)).withEarlier (readBytes es s) := by
  induction es generalizing s with
  | nil => rfl
  | cons e es ih =>
    obtain ⟨he, hes⟩ := not_or.mp (mt List.mem_cons.mpr h)
    have hrest := ih (onEvent e s) hes
    match e with
    | .engine => rw [sentBytes_engine, ← drive_onEvent_engine]; exact hrest
    | .host (.send b) => rw [sentBytes_send, drive_cons]; exact hrest
    | .host .read =>
      rw [sentBytes_read, drive_readResponse, onEvents_cons, readBytes, ← withEarlier_withEarlier]
      exact congrArg (State.withEarlier _) hrest
    | .host .hwReset => exact absurd rfl he

/-- Settles O50: by induction on the history; a step commutes with the bytes that arrive later, and a read takes a byte
that no step looks at. -/
theorem scheduleDoesNotMatter : Obligations.ScheduleDoesNotMatter :=
  drive_sentBytes

/-! ## The byte orders (00_scope.md R10) -/

@[simp] theorem length_beBytes (n v : Nat) : (beBytes n v).length = n := by
  induction n with
  | zero => rfl
  | succ n ih => rw [beBytes, List.length_cons, ih]

/-- Byte k of a big-endian form is the one of weight 256^(n-1-k). -/
theorem getElem?_beBytes {n k : Nat} (v : Nat) (hk : k < n) :
    (beBytes n v)[k]? = some (BitVec.ofNat 8 (v / 256 ^ (n - 1 - k))) := by
  induction n generalizing k with
  | zero => omega
  | succ n ih =>
    cases k with
    | zero => rfl
    | succ k =>
      rw [beBytes, List.getElem?_cons_succ, ih (by omega), show n + 1 - 1 - (k + 1) = n - 1 - k by omega]

/-- Reading n bytes of a big-endian form that has m more bytes behind them gives its digits m, ..., m + n - 1 in base
256. -/
theorem memRead_of_bytes {B : List Byte} {off v : Nat} (n m : Nat)
    (h : ∀ k < n, B[off + k]? = some (BitVec.ofNat 8 (v / 256 ^ (m + n - 1 - k)))) :
    memRead B off n = v / 256 ^ m % 256 ^ n := by
  induction n generalizing m with
  | zero => rw [memRead, pow_zero, Nat.mod_one]
  | succ n ih =>
    have hhigh : memRead B off n = v / 256 ^ (m + 1) % 256 ^ n :=
      ih (m + 1) fun k hk => by rw [h k (by omega), show m + 1 + n - 1 - k = m + (n + 1) - 1 - k by omega]
    have hlow : (B.getD (off + n) 0).toNat = v / 256 ^ m % 256 := by
      rw [List.getD_eq_getElem?_getD, h n (by omega), show m + (n + 1) - 1 - n = m by omega]
      rfl
    rw [memRead, hhigh, hlow, pow_succ, ← Nat.div_div_eq_div_mul, pow_succ' 256 n, Nat.mod_mul]
    omega

/-! ## The length field of the padded tail (20_memory.md R42) -/

theorem toNat_bitLength (len : U128) : (bitLength len).toNat = len.toNat * 8 % 2 ^ 128 := by
  rw [bitLength, BitVec.toNat_shiftLeft, Nat.shiftLeft_eq]

/-- A padded tail ends in the length field, and fills a block at least when BUF is no full block (R49). -/
theorem pad_eq_append {B : List Byte} (len : U128) (hB : B.length ≤ 127) :
    ∃ front, pad B len = front ++ beBytes 16 (len.toNat * 8 % 2 ^ 128) ∧ 112 ≤ front.length := by
  refine ⟨B ++ [0x80] ++ List.replicate (padZeros B.length) 0x00, by rw [pad, toNat_bitLength], ?_⟩
  simp only [padZeros, List.length_append, List.length_singleton, List.length_replicate]
  omega

/-- The last block of a padded tail. -/
def lastPadBlock (B : List Byte) (len : U128) : List Byte :=
  (pad B len).drop ((pad B len).length - 128)

/-- Offsets 112, ..., 127 of the last block are the length field. -/
theorem getElem?_lastPadBlock {B : List Byte} (len : U128) (hB : B.length ≤ 127) {k : Nat} (hk : k < 16) :
    (lastPadBlock B len)[112 + k]? =
      some (BitVec.ofNat 8 (len.toNat * 8 % 2 ^ 128 / 256 ^ (15 - k))) := by
  obtain ⟨front, hpad, hfront⟩ := pad_eq_append len hB
  have hoff : (pad B len).length - 128 + (112 + k) = front.length + k := by
    rw [hpad, List.length_append, length_beBytes]
    omega
  rw [lastPadBlock, List.getElem?_drop, hoff, hpad, List.getElem?_append_right (by omega), Nat.add_sub_cancel_left,
    getElem?_beBytes _ hk]

/-- PARSE loads the block's big-endian words (40_compression_core.md R90). -/
theorem readW_parseBlock (B : List Byte) (x : Scratch) {j : Nat} (hj : j < 16) :
    readW (parseBlock B x) j = BitVec.ofNat 64 (memRead B (8 * j) 8) :=
  readW_parseLoop B x (by decide) hj

/-- Reading n bytes of the length field, m bytes before its end. -/
theorem memRead_lastPadBlock {B : List Byte} (len : U128) (hB : B.length ≤ 127) {off n m : Nat} (hoff : 112 ≤ off)
    (hend : off + n + m = 128) :
    memRead (lastPadBlock B len) off n = len.toNat * 8 % 2 ^ 128 / 256 ^ m % 256 ^ n :=
  memRead_of_bytes n m fun k hk => by
    rw [show off + k = 112 + (off - 112 + k) by omega, getElem?_lastPadBlock len hB (by omega),
      show 15 - (off - 112 + k) = m + n - 1 - k by omega]

/-- Settles O18: the field's bytes by their place in the padded tail, W[14] and W[15] by reading them back. -/
theorem lengthFieldIsBigEndian : Obligations.LengthFieldIsBigEndian := by
  intro B len x hB
  refine ⟨fun k hk => ?_, ?_, ?_⟩
  · rw [pow_mul]
    exact getElem?_lastPadBlock len hB hk
  · have hread := memRead_lastPadBlock len hB (off := 8 * 14) (n := 8) (m := 8) (by decide) rfl
    rw [← lastPadBlock, readW_parseBlock _ _ (by decide), hread, BitVec.toNat_ofNat]
    omega
  · have hread := memRead_lastPadBlock len hB (off := 8 * 15) (n := 8) (m := 0) (by decide) rfl
    rw [← lastPadBlock, readW_parseBlock _ _ (by decide), hread, BitVec.toNat_ofNat]
    omega

/-! ## The digest (20_memory.md R43) -/

/-- In a concatenation of pieces of m bytes each, byte m i + k is byte k of piece i. -/
theorem getElem?_flatMap_mul_add {α β : Type} {f : α → List β} {m : Nat} (hf : ∀ a, (f a).length = m)
    (l : List α) (i : Nat) {k : Nat} (hk : k < m) : (l.flatMap f)[m * i + k]? = l[i]?.bind fun a => (f a)[k]? := by
  induction l generalizing i with
  | nil => rfl
  | cons a l ih =>
    rw [List.flatMap_cons]
    cases i with
    | zero => rw [Nat.mul_zero, Nat.zero_add, List.getElem?_append_left (by rw [hf]; exact hk)]; rfl
    | succ i =>
      rw [List.getElem?_append_right (by rw [hf, Nat.mul_succ]; omega), hf,
        show m * (i + 1) + k - m = m * i + k by rw [Nat.mul_succ]; omega, ih, List.getElem?_cons_succ]

/-- SERIALIZE sends the first six words, 8 bytes each. -/
theorem serialize_eq_flatMap (H : Hash) : serialize H = (H.toList.take 6).flatMap fun w => beBytes 8 w.toNat := by
  have hwords : H.toList.take 6 = [H[0], H[1], H[2], H[3], H[4], H[5]] := by
    apply List.ext_getElem
    · simp
    · intro i h1 h2
      have hi : i < 6 := by simpa using h2
      interval_cases i <;> simp
  rw [hwords, serialize]
  simp

/-- Byte k of a word's big-endian form is its bits 63-8k down to 56-8k. -/
theorem getElem?_beBytes_word (w : Word) {k : Nat} (hk : k < 8) :
    (beBytes 8 w.toNat)[k]? = some (w.extractLsb' (56 - 8 * k) 8) := by
  have hweight : 256 ^ (8 - 1 - k) = 2 ^ (56 - 8 * k) := by
    rw [show 56 - 8 * k = 8 * (8 - 1 - k) by omega, pow_mul]
    rfl
  rw [getElem?_beBytes _ hk, hweight, ← Nat.shiftRight_eq_div_pow]
  rfl

/-- Settles O19: the pieces of SERIALIZE, and the bytes of a word. -/
theorem digestBytesAreBigEndian : Obligations.DigestBytesAreBigEndian := by
  intro H
  refine ⟨by simp [serialize], fun i k hi hk => ?_⟩
  have hword : (H.toList.take 6)[i]? = some H[i] := by
    simp [hi]
  rw [serialize_eq_flatMap, getElem?_flatMap_mul_add (fun _ => length_beBytes 8 _) _ _ hk, hword,
    Option.bind_some, getElem?_beBytes_word _ hk]

/-! ## COMPRESS against the reference without registers (40_compression_core.md R90 to R95) -/

/-- A big-endian integer is the fold of its bytes. -/
theorem ofNat_memRead {B : List Byte} {off n : Nat} (h : off + n ≤ B.length) :
    BitVec.ofNat 64 (memRead B off n) =
      ((B.drop off).take n).foldl (fun v b => v * 256 + BitVec.ofNat 64 b.toNat) 0 := by
  induction n with
  | zero => rfl
  | succ n ih =>
    have hlast : (B.drop off)[n]? = some (B.getD (off + n) 0) := by
      rw [List.getElem?_drop, List.getD_eq_getElem?_getD, List.getElem?_eq_getElem (by omega), Option.getD_some]
    rw [memRead, BitVec.ofNat_add, BitVec.ofNat_mul, ih (by omega), List.take_add_one, hlast, List.foldl_append]
    rfl

/-- The words W[0], ..., W[n-1]. -/
def wordsW (x : Scratch) (n : Nat) : List Word :=
  (List.range n).map (readW x)

theorem getD_wordsW (x : Scratch) {n j : Nat} (hj : j < n) : (wordsW x n).getD j 0 = readW x j := by
  simp [wordsW, hj]

/-- Writing the next word lengthens the list of words by it. -/
theorem wordsW_writeW (x : Scratch) (v : Word) {n : Nat} (hn : n < 80) :
    wordsW (writeW x n v) (n + 1) = wordsW x n ++ [v] := by
  have hbelow : ∀ j ∈ List.range n, readW (writeW x n v) j = readW x j := fun j hj =>
    readW_writeW_ne x v (List.mem_range.mp hj).ne'
  rw [wordsW, List.range_succ, List.map_append, List.map_congr_left hbelow, List.map_singleton,
    readW_writeW_same x v hn]
  rfl

/-- PARSE loads the reference's sixteen words (R90). -/
theorem wordsW_parseBlock {B : List Byte} (x : Scratch) (hB : B.length = 128) :
    wordsW (parseBlock B x) 16 = (List.range 16).map (refWord B) := by
  refine List.map_congr_left fun j hj => ?_
  have hj' : j < 16 := List.mem_range.mp hj
  rw [readW_parseBlock B x hj', ofNat_memRead (by omega)]
  rfl

/-- SCHEDULE writes the reference's growing list (R91). -/
theorem wordsW_scheduleLoop {B : List Byte} (x : Scratch) (hB : B.length = 128) {n : Nat} (hn : n ≤ 64) :
    wordsW (scheduleLoop (parseBlock B x) n) (16 + n) = refSchedule B n := by
  induction n with
  | zero => exact wordsW_parseBlock x hB
  | succ n ih =>
    rw [refSchedule, ← ih (by omega), scheduleLoop, ← Nat.add_assoc, scheduleWord, Config.blockWords,
      wordsW_writeW _ _ (by omega)]
    simp only [getD_wordsW _ (show 14 + n < 16 + n by omega), getD_wordsW _ (show 9 + n < 16 + n by omega),
      getD_wordsW _ (show 1 + n < 16 + n by omega), getD_wordsW _ (show n < 16 + n by omega),
      show 16 + n - 2 = 14 + n by omega, show 16 + n - 7 = 9 + n by omega, show 16 + n - 15 = 1 + n by omega,
      show 16 + n - 16 = n by omega]

/-- The working variables a..h. -/
def Scratch.vars (x : Scratch) : RefVars :=
  ⟨x.a, x.b, x.c, x.d, x.e, x.f, x.g, x.h⟩

@[simp] theorem readW_coreRound (t : Nat) (x : Scratch) (j : Nat) : readW (coreRound t x) j = readW x j := rfl

@[simp] theorem readW_roundLoop (x : Scratch) (n j : Nat) : readW (roundLoop x n) j = readW x j := by
  induction n with
  | zero => rfl
  | succ n ih => rw [roundLoop, readW_coreRound, ih]

theorem vars_coreRound (t : Nat) (x : Scratch) : (coreRound t x).vars = refRound x.vars (kAt t, readW x t) := rfl

/-- The rounds fold the pairs (K[t], W[t]) (R93). -/
theorem vars_roundLoop (x : Scratch) (n : Nat) :
    (roundLoop x n).vars = (((List.range n).map kAt).zip (wordsW x n)).foldl refRound x.vars := by
  induction n with
  | zero => rfl
  | succ n ih =>
    rw [wordsW, List.zip_map'] at ih ⊢
    rw [List.range_succ, List.map_append, List.foldl_append, ← ih, roundLoop, vars_coreRound, readW_roundLoop]
    rfl

theorem vars_loadVars (S : Hash) (x : Scratch) :
    (loadVars S x).vars = ⟨S[0], S[1], S[2], S[3], S[4], S[5], S[6], S[7]⟩ := rfl

theorem wordsW_loadVars (S : Hash) (x : Scratch) (n : Nat) : wordsW (loadVars S x) n = wordsW x n := rfl

theorem wordsW_schedule {B : List Byte} (x : Scratch) (hB : B.length = 128) :
    wordsW (schedule (parseBlock B x)) Config.rounds = refSchedule B 64 :=
  wordsW_scheduleLoop x hB le_rfl

theorem map_kAt_rounds : (List.range Config.rounds).map kAt = kRom := map_kAt_range

/-- The working variables after the rounds of a compression are those of the reference. -/
theorem vars_runCore (S : Hash) {B : List Byte} (x : Scratch) (hB : B.length = 128) :
    (runCore S B x).vars =
      (kRom.zip (refSchedule B 64)).foldl refRound ⟨S[0], S[1], S[2], S[3], S[4], S[5], S[6], S[7]⟩ := by
  rw [runCore, vars_roundLoop, map_kAt_rounds, wordsW_loadVars, wordsW_schedule x hB, vars_loadVars]

/-- ADDBACK reads the working variables alone (R94). -/
def addBackVars (S : Hash) (v : RefVars) : Hash :=
  #v[S[0] + v.a, S[1] + v.b, S[2] + v.c, S[3] + v.d, S[4] + v.e, S[5] + v.f, S[6] + v.g, S[7] + v.h]

/-- COMPRESS on the scratch registers is the reference (R95). -/
theorem compress_eq_refCompress (S : Hash) {B : List Byte} (hB : B.length = 128) :
    compress S B = refCompress S B :=
  congrArg (addBackVars S) (vars_runCore S Scratch.reset hB)

/-! ## FINALIZE twice (20_memory.md R48) -/

/-- FINALIZE's response is the digest of the chaining value after the padded tail (41_streaming_context.md R108). -/
theorem responseOf_finalize (s : State) :
    responseOf .finalize s = some (statusOk :: serialize (compressTail (pad s.buf s.len) s).H) := by
  obtain ⟨-, -, -, -, -, -, -, hrsp⟩ := compressTail_spec (pad s.buf s.len) s
  simp [responseOf, exec_finalize, hrsp]

/-- The padding of the empty message is one block (R105). -/
theorem length_refPad_nil : (refPad []).length = 128 := by
  simp [refPad]

theorem pad_nil : pad [] 0 = refPad [] := rfl

/-- The digest of the empty message compresses its one block. -/
theorem sha384_nil : sha384 [] = serialize (refCompress iv (refPad [])) := by
  have hblock : (refPad []).take 128 = refPad [] := List.take_of_length_le length_refPad_nil.le
  rw [sha384, length_refPad_nil, foldBlocks, foldBlocks, hblock]

/-- FINALIZE of an engine that has absorbed nothing answers the digest of the empty message. -/
theorem responseOf_finalize_fresh {s : State} (hH : s.H = iv) (hbuf : s.buf = []) (hlen : s.len = 0) :
    responseOf .finalize s = some (0x00 :: sha384 []) := by
  obtain ⟨hdigest, -⟩ := compressTail_spec (refPad []) s
  rw [length_refPad_nil, if_neg (by decide), List.take_of_length_le length_refPad_nil.le, hH,
    compress_eq_refCompress iv length_refPad_nil] at hdigest
  rw [responseOf_finalize, hbuf, hlen, pad_nil, hdigest, sha384_nil]
  rfl

/-- Settles O28: FINALIZE ends in the return to Fresh, which absorbs the empty message. -/
theorem secondFinalizeAnswersEmptyDigest : Obligations.SecondFinalizeAnswersEmptyDigest := by
  intro s t h
  cases h
  exact responseOf_finalize_fresh rfl rfl rfl

end Sys2Proof.Machine

/-! # Encoding proofs (family 30_encoding)

The class of a header by its fields and by its word, packets against the decoder, the response of a packet, and the
assembler; then the theorems that settle the statements on the encoding. -/

namespace Sys2Proof

/-! ## The class of a header, by its fields (30_encoding.md R67) -/

theorem classify_eq_init_iff (f : Header) : classify f = .init ↔ f.opc = 0x01 ∧ f.rsv = 0x00 ∧ f.plen = 0 := by
  unfold classify
  split_ifs <;> grind

theorem classify_eq_finalize_iff (f : Header) :
    classify f = .finalize ↔ f.opc = 0x03 ∧ f.rsv = 0x00 ∧ f.plen = 0 := by
  unfold classify
  split_ifs <;> grind

theorem classify_eq_update_iff (f : Header) (n : Nat) :
    classify f = .update n ↔ f.opc = 0x02 ∧ f.rsv = 0x00 ∧ f.plen.toNat = n := by
  unfold classify
  split_ifs <;> grind

theorem classify_eq_illegalOpcode_iff (f : Header) :
    classify f = .illegal .illegalOpcode ↔ f.opc ≠ 0x01 ∧ f.opc ≠ 0x02 ∧ f.opc ≠ 0x03 := by
  unfold classify
  split_ifs <;> grind

/-! ## Packets and the decoder -/

/-- Settles O7: the length field of a well-formed command holds its payload length. -/
theorem decodeReadsEncodedPacket : Obligations.DecodeReadsEncodedPacket :=
  fun _ rest hwf => decode_encode_append hwf rest

/-- A header with RSV = 0 is the one that the encoder sends for its OPC and PLEN (R61, R65). -/
theorem encodeHeader_plen (opc b2 b3 : Byte) :
    encodeHeader opc (b2 ++ b3).toNat = [opc, 0x00, b2, b3] := by
  have hhigh : BitVec.ofNat 8 ((b2.toNat * 256 + b3.toNat) / 256) = b2 := by bv_omega
  have hlow : BitVec.ofNat 8 (b2.toNat * 256 + b3.toNat) = b3 := by bv_omega
  rw [plen_toNat, encodeHeader, hhigh, hlow]

/-- Bytes that begin with a legal header and hold its payload are the packet of that command. -/
theorem encode_of_header {i : Instr} {b2 b3 : Byte} (h : (b2 ++ b3).toNat = i.payload.length) :
    i.wf = true ∧ encode i = i.opc :: 0x00 :: b2 :: b3 :: i.payload := by
  refine ⟨decide_eq_true ?_, ?_⟩
  · rw [← h]
    exact Nat.le_of_lt_succ (b2 ++ b3).isLt
  · rw [encode, ← h, encodeHeader_plen]
    rfl

/-- Settles O8: each class of legal header fixes the four header bytes. -/
theorem decodedPacketIsItsEncoding : Obligations.DecodedPacketIsItsEncoding := by
  intro q rest i h
  match q with
  | [] | [_] | [_, _] | [_, _, _] => exact nomatch h
  | b0 :: b1 :: b2 :: b3 :: tail =>
    rw [decode_header] at h
    obtain ⟨hk, rfl, rfl⟩ | ⟨hk, rfl, rfl⟩ | ⟨n, hk, hn, rfl, rfl⟩ := takePayload_packet h
    · obtain ⟨rfl, rfl, hplen⟩ := (classify_eq_init_iff _).mp hk
      obtain ⟨hwf, hbytes⟩ := encode_of_header (i := .init) (congrArg BitVec.toNat hplen)
      exact ⟨hwf, by rw [hbytes]; rfl⟩
    · obtain ⟨rfl, rfl, hplen⟩ := (classify_eq_finalize_iff _).mp hk
      obtain ⟨hwf, hbytes⟩ := encode_of_header (i := .finalize) (congrArg BitVec.toNat hplen)
      exact ⟨hwf, by rw [hbytes]; rfl⟩
    · obtain ⟨rfl, rfl, hplen⟩ := (classify_eq_update_iff _ _).mp hk
      obtain ⟨hwf, hbytes⟩ := encode_of_header (i := .update (tail.take n)) (b2 := b2) (b3 := b3)
        (hplen.trans (List.length_take_of_le hn).symm)
      refine ⟨hwf, ?_⟩
      rw [hbytes]
      exact congrArg (_ :: _ :: _ :: _ :: ·) (List.take_append_drop n tail).symm

/-- A queue with less than a packet's payload behind the header waits (R64). -/
theorem decode_update_short {d tail : List Byte} (hwf : (Instr.update d).wf = true) (h : tail.length < d.length) :
    decode (encodeHeader 0x02 d.length ++ tail) = .wait := by
  have hd : d.length ≤ Config.maxPlen := of_decide_eq_true hwf
  refine (decode_header 0x02 0x00 _ _ tail).trans ?_
  rw [classify_update, plenBytes_toNat hd, takePayload, if_pos h]

theorem length_encode (i : Instr) : (encode i).length = i.packetLength := by
  cases i with
  | init => exact Laws.PacketLength.init
  | update d => exact Laws.PacketLength.update d
  | finalize => exact Laws.PacketLength.finalize

/-- Settles O11: a cut in the header leaves fewer than 4 bytes, and a cut behind it leaves too few payload bytes. -/
theorem partOfPacketWaits : Obligations.PartOfPacketWaits := by
  intro i k hwf hk
  rw [length_encode, Instr.packetLength, Config.hdrBytes] at hk
  by_cases hheader : k < 4
  · exact decode_short (lt_of_le_of_lt (List.length_take_le k _) hheader)
  · obtain ⟨m, rfl⟩ := Nat.exists_eq_add_of_le (not_lt.mp hheader)
    have hm : m < i.payload.length := by omega
    cases i with
    | init => exact absurd hm (Nat.not_lt_zero m)
    | finalize => exact absurd hm (Nat.not_lt_zero m)
    | update d =>
      have hcut : (encode (.update d)).take (4 + m) = encodeHeader 0x02 d.length ++ d.take m :=
        List.take_length_add_append (l₁ := encodeHeader 0x02 d.length) m
      rw [hcut]
      exact decode_update_short hwf (lt_of_le_of_lt (List.length_take_le m d) hm)

/-- Settles O10: the chain of the classification, with the bytes compared by value. -/
theorem decoderClassifiesInOrder : Obligations.DecoderClassifiesInOrder := by
  refine ⟨fun q => decode_short, fun b0 b1 b2 b3 rest => ?_⟩
  rw [decode_header, classify]
  simp only [apply_ite (takePayload · rest), ne_eq, ← BitVec.toNat_inj, plen_toNat]
  rfl

/-- Settles O12: three packets of commands, and two headers whose class is illegal. -/
theorem writtenOutPacketsDecode : Obligations.WrittenOutPacketsDecode :=
  ⟨decode_encode_append (i := .init) rfl [], decode_encode_append (i := .update [0x61, 0x62, 0x63]) rfl [],
    decode_encode_append (i := .finalize) rfl [], by decide, by decide⟩

/-! ## The class of a header, by match and mask (R63) -/

/-- The fields as digits of the header word (R61). -/
theorem headerFields_toNat (hdr : BitVec 32) :
    (headerFields hdr).opc.toNat = hdr.toNat / 2 ^ 24 ∧
    (headerFields hdr).rsv.toNat = hdr.toNat / 2 ^ 16 % 2 ^ 8 ∧
    (headerFields hdr).plen.toNat = hdr.toNat % 2 ^ 16 := by
  have htop : hdr.toNat / 2 ^ 24 < 2 ^ 8 := by omega
  simp only [headerFields, BitVec.extractLsb'_toNat, Nat.shiftRight_eq_div_pow, Nat.mod_eq_of_lt htop, pow_zero,
    Nat.div_one, and_self]

/-- The mask of UPDATE's row keeps OPC and RSV, the digits above the length field. -/
theorem and_updateMask_eq_iff (hdr : BitVec 32) :
    hdr &&& 0xFFFF0000 = 0x02000000 ↔ hdr.toNat / 2 ^ 16 = 0x0200 := by
  have hmask : hdr &&& (0xFFFF0000 : BitVec 32) = hdr >>> 16 <<< 16 :=
    (BitVec.shiftLeft_ushiftRight (x := hdr) (n := 16)).symm
  have hvalue : (hdr >>> 16 <<< 16).toNat = hdr.toNat / 2 ^ 16 * 2 ^ 16 % 2 ^ 32 := by
    rw [BitVec.toNat_shiftLeft, BitVec.toNat_ushiftRight, Nat.shiftRight_eq_div_pow, Nat.shiftLeft_eq]
  rw [hmask]
  bv_omega

/-- The mask of INIT's and FINALIZE's rows keeps every bit. -/
theorem and_fullMask (hdr : BitVec 32) : hdr &&& 0xFFFFFFFF = hdr :=
  BitVec.and_allOnes

/-- Settles O9: the fields of a header are digits of its word. -/
theorem headerSelectsRowByMatchAndMask : Obligations.HeaderSelectsRowByMatchAndMask := by
  intro hdr
  obtain ⟨hopc, hrsv, hplen⟩ := headerFields_toNat hdr
  rw [classify_eq_init_iff, classify_eq_finalize_iff, classify_eq_illegalOpcode_iff, and_fullMask,
    and_updateMask_eq_iff]
  simp only [classify_eq_update_iff]
  refine ⟨?_, fun n => ?_, ?_, ?_⟩ <;> bv_omega

end Sys2Proof

namespace Sys2Proof.Machine

/-! ## The response of a packet (R68, R69) -/

/-- Every command completes and answers 00, with 48 digest bytes behind it for FINALIZE alone. -/
theorem exec_answers (i : Instr) (s : State) :
    ∃ t digest, exec i s = .next t ∧ t.rspOut = s.rspOut ++ 0x00 :: digest ∧
      digest.length = if i = .finalize then 48 else 0 := by
  cases i with
  | init => exact ⟨_, [], rfl, rfl, rfl⟩
  | update D =>
    obtain ⟨-, -, -, -, -, hrsp⟩ := absorbPayload_frame D s
    exact ⟨_, [], exec_update D s, congrArg (· ++ [statusOk]) hrsp, rfl⟩
  | finalize =>
    obtain ⟨-, -, -, -, -, -, -, hrsp⟩ := compressTail_spec (pad s.buf s.len) s
    exact ⟨_, serialize (compressTail (pad s.buf s.len) s).H, exec_finalize s, congrArg (· ++ _) hrsp,
      (digestBytesAreBigEndian _).1⟩

/-- Settles O35: an illegal header answers its cause, and a legal packet what its command answers. -/
theorem oneResponsePerPacket : Obligations.OneResponsePerPacket := by
  intro s hf hd
  cases hdec : decode s.rxq with
  | wait => exact absurd hdec hd
  | illegal c rest =>
    refine ⟨s.enterFault c, statusOfCause c, [], step_of_illegal hf hdec, rfl, ?_, nofun⟩
    rintro _ _ ⟨⟩
    exact ⟨rfl, rfl⟩
  | packet i rest =>
    obtain ⟨t, digest, hexec, hrsp, hlen⟩ := exec_answers i (s.takePacket rest)
    refine ⟨t, 0x00, digest, (step_of_packet hf hdec).trans hexec, hrsp, nofun, ?_⟩
    rintro _ _ ⟨⟩
    exact ⟨rfl, hlen⟩

/-! ## UPDATEL (R71) -/

/-- More fuel than bytes cuts them all into pieces that fit a packet. -/
theorem chunkLoop_spec {fuel : Nat} {M : List Byte} (h : M.length < fuel) :
    (chunkLoop fuel M).flatten = M ∧ ∀ c ∈ chunkLoop fuel M, c.length ≤ Config.maxPlen := by
  induction fuel generalizing M with
  | zero => exact absurd h (Nat.not_lt_zero _)
  | succ fuel ih =>
    rw [chunkLoop]
    split
    case isTrue hfits => simpa using hfits
    case isFalse hlong =>
      obtain ⟨hjoin, hmax⟩ := ih (M := M.drop Config.maxPlen) (by grind)
      exact ⟨by rw [List.flatten_cons, hjoin, List.take_append_drop],
        List.forall_mem_cons.mpr ⟨List.length_take_le _ _, hmax⟩⟩

/-- An operand that fits a packet is one piece. -/
theorem chunks_of_fits {M : List Byte} (h : M.length ≤ Config.maxPlen) : chunks M = [M] := by
  rw [chunks, chunkLoop, if_pos h]

/-- Settles O46: by induction on the fuel of the cut. -/
theorem updatelPiecesJoinToOperand : Obligations.UpdatelPiecesJoinToOperand := by
  intro M
  obtain ⟨hjoin, hmax⟩ := chunkLoop_spec (Nat.lt_succ_self M.length)
  exact ⟨hjoin, hmax, chunks_of_fits⟩

/-! ## The quoted operand (R70) -/

/-- A quoted text ends at the first quotation mark. -/
theorem splitQuote_append {text : List Char} (h : ∀ c ∈ text, c ≠ quoteMark) (after : List Char) :
    splitQuote (text ++ quoteMark :: after) = some (text, after) := by
  induction text with
  | nil => rw [List.nil_append, splitQuote, if_pos rfl]
  | cons c text ih =>
    obtain ⟨hc, htext⟩ := List.forall_mem_cons.mp h
    rw [List.cons_append, splitQuote, if_neg hc, ih htext]

/-- ASCII characters are bytes in order. -/
theorem asciiBytes_of_ascii {text : List Char} (h : ∀ c ∈ text, c.toNat < 128) :
    asciiBytes text = some (text.map fun c => BitVec.ofNat 8 c.toNat) := by
  induction text with
  | nil => rfl
  | cons c text ih =>
    obtain ⟨hc, htext⟩ := List.forall_mem_cons.mp h
    rw [asciiBytes, ih htext, List.map_cons]
    exact if_pos hc

/-- A quoted ASCII text behind a space is an operand: its character codes. -/
theorem asmOperand_quoted {text after : List Char} (hascii : ∀ c ∈ text, c.toNat < 128)
    (hquote : ∀ c ∈ text, c ≠ quoteMark) (hafter : isLineEnd after = true) :
    asmOperand (' ' :: quoteMark :: (text ++ quoteMark :: after)) =
      some (text.map fun c => BitVec.ofNat 8 c.toNat) := by
  have hspace : (' ' :: quoteMark :: (text ++ quoteMark :: after)).dropWhile isBlankChar =
      quoteMark :: (text ++ quoteMark :: after) := rfl
  simp only [asmOperand, hspace, if_true, splitQuote_append hquote, hafter, asciiBytes_of_ascii hascii]

/-- UPDATE, a space and anything else is UPDATE with an operand. -/
theorem asmLine_update (rest : List Char) :
    asmLine ('U' :: 'P' :: 'D' :: 'A' :: 'T' :: 'E' :: ' ' :: rest) =
      asmWith .update (some Config.maxPlen) (' ' :: rest) := rfl

/-- Settles O47: the mnemonic, then the text up to the second quotation mark. -/
theorem quotedOperandGivesCharacterCodes : Obligations.QuotedOperandGivesCharacterCodes := by
  intro text htext hlen
  have hoperand := asmOperand_quoted (after := []) (fun c hc => (htext c hc).1) (fun c hc => (htext c hc).2) rfl
  refine (asmLine_update (quoteMark :: (text ++ [quoteMark]))).trans ?_
  simp only [asmWith, hoperand]
  exact if_pos (by rwa [List.length_map])

end Sys2Proof.Machine

/-! # Compression core proofs (family 40_compression_core)

What a write to the schedule leaves alone, PARSE and SCHEDULE word by word, and the word functions bit by bit; then the
theorems that settle the statements on the CORE. -/

namespace Sys2Proof.Machine

/-! ## The registers beside the schedule -/

/-- `y` is `x` but for the schedule words. -/
def OnlyWDiffers (x y : Scratch) : Prop :=
  y = { x with w := y.w }

theorem onlyWDiffers_writeW {x y : Scratch} (h : OnlyWDiffers x y) (t : Nat) (v : Word) :
    OnlyWDiffers x (writeW y t v) :=
  congrArg (writeW · t v) h

theorem onlyWDiffers_parseLoop (B : List Byte) (x : Scratch) (n : Nat) : OnlyWDiffers x (parseLoop B x n) := by
  induction n with
  | zero => rfl
  | succ n ih => exact onlyWDiffers_writeW ih _ _

theorem onlyWDiffers_scheduleLoop (x : Scratch) (n : Nat) : OnlyWDiffers x (scheduleLoop x n) := by
  induction n with
  | zero => rfl
  | succ n ih => exact onlyWDiffers_writeW ih _ _

/-! ## SCHEDULE (R91) -/

/-- The recurrence of R91: what SCHEDULE writes to W[t]. -/
def scheduleValue (x : Scratch) (t : Nat) : Word :=
  smallSigma1 (readW x (t - 2)) + readW x (t - 7) + smallSigma0 (readW x (t - 15)) + readW x (t - 16)

/-- A word is final once the loop has passed it. -/
theorem readW_scheduleLoop_of_le (x : Scratch) {m n j : Nat} (hmn : m ≤ n) (hj : j < 16 + m) :
    readW (scheduleLoop x n) j = readW (scheduleLoop x m) j := by
  induction n, hmn using Nat.le_induction with
  | base => rfl
  | succ n hmn ih =>
    have hbelow : j < 16 + n := by omega
    exact (readW_writeW_ne _ _ hbelow.ne').trans ih

theorem readW_schedule_of_lt (x : Scratch) {m j : Nat} (hm : m ≤ 64) (hj : j < 16 + m) :
    readW (schedule x) j = readW (scheduleLoop x m) j :=
  readW_scheduleLoop_of_le x hm hj

theorem readW_schedule_low (x : Scratch) {j : Nat} (hj : j < 16) : readW (schedule x) j = readW x j :=
  readW_schedule_of_lt x (Nat.zero_le 64) hj

/-- The step that writes W[t] reads words that are already final. -/
theorem readW_schedule_high (x : Scratch) {t : Nat} (hlow : 16 ≤ t) (hhigh : t < 80) :
    readW (schedule x) t = scheduleValue (schedule x) t := by
  obtain ⟨n, rfl⟩ := Nat.exists_eq_add_of_le hlow
  have hfinal : ∀ k, 0 < k → k ≤ 16 → readW (schedule x) (16 + n - k) = readW (scheduleLoop x n) (16 + n - k) :=
    fun k _ _ => readW_schedule_of_lt x (by omega) (by omega)
  calc readW (schedule x) (16 + n)
      = readW (scheduleLoop x (n + 1)) (16 + n) := readW_schedule_of_lt x (by omega) (by omega)
    _ = scheduleValue (scheduleLoop x n) (16 + n) := readW_writeW_same _ _ hhigh
    _ = scheduleValue (schedule x) (16 + n) := by
      rw [scheduleValue, scheduleValue, hfinal 2, hfinal 7, hfinal 15, hfinal 16] <;> decide

/-- Sixteen zeros give a schedule of zeros: the recurrence of zeros is zero. -/
theorem readW_schedule_eq_zero {x : Scratch} (hzero : ∀ j < 16, readW x j = 0) {t : Nat} (ht : t < 80) :
    readW (schedule x) t = 0 := by
  induction t using Nat.strong_induction_on with
  | _ t ih =>
    by_cases hlow : t < 16
    · rw [readW_schedule_low x hlow, hzero t hlow]
    · rw [readW_schedule_high x (by omega) ht, scheduleValue, ih (t - 2) (by omega) (by omega),
        ih (t - 7) (by omega) (by omega), ih (t - 15) (by omega) (by omega), ih (t - 16) (by omega) (by omega)]
      rfl

/-- Settles O5: each word is final when a later step reads it. -/
theorem scheduleFollowsRecurrence : Obligations.ScheduleFollowsRecurrence := fun x =>
  ⟨fun _ hlow hhigh => readW_schedule_high x hlow (Nat.lt_succ_of_le hhigh), fun _ hj => readW_schedule_low x hj,
    onlyWDiffers_scheduleLoop x 64, fun hzero _ ht => readW_schedule_eq_zero hzero ht⟩

/-! ## COMPRESS (R95) -/

/-- Settles O6: what the scratch registers held does not matter, and from their reset values COMPRESS is the
reference. -/
theorem compressEqualsReference : Obligations.CompressEqualsReference := fun x S B hB =>
  (compressFrom_eq x S B).trans (compress_eq_refCompress S hB)

/-! ## PARSE (R90) -/

theorem readW_parseLoop_of_le (B : List Byte) (x : Scratch) {n t : Nat} (h : n ≤ t) :
    readW (parseLoop B x n) t = readW x t := by
  induction n with
  | zero => rfl
  | succ n ih => exact (readW_writeW_ne _ _ (by omega)).trans (ih (by omega))

/-- Eight bytes read as a big-endian integer (20_memory.md R41). -/
theorem memRead_eight (B : List Byte) (off : Nat) :
    memRead B off 8 =
      (B.getD off 0).toNat * 2 ^ 56 + (B.getD (off + 1) 0).toNat * 2 ^ 48 + (B.getD (off + 2) 0).toNat * 2 ^ 40 +
      (B.getD (off + 3) 0).toNat * 2 ^ 32 + (B.getD (off + 4) 0).toNat * 2 ^ 24 +
      (B.getD (off + 5) 0).toNat * 2 ^ 16 + (B.getD (off + 6) 0).toNat * 2 ^ 8 + (B.getD (off + 7) 0).toNat := by
  simp only [memRead, Nat.add_zero]
  ring

theorem memRead_lt (B : List Byte) (off n : Nat) : memRead B off n < 256 ^ n := by
  induction n with
  | zero => exact Nat.one_pos
  | succ n ih =>
    have hbyte := (B.getD (off + n) 0).isLt
    rw [memRead, pow_succ]
    omega

theorem toNat_readW_parseBlock (B : List Byte) (x : Scratch) {j : Nat} (hj : j < 16) :
    (readW (parseBlock B x) j).toNat = memRead B (8 * j) 8 := by
  rw [readW_parseBlock B x hj, BitVec.toNat_ofNat]
  exact Nat.mod_eq_of_lt (memRead_lt B (8 * j) 8)

/-- Settles O4: W[j] is the value of eight bytes, which fits a word. -/
theorem parseLoadsBigEndianWords : Obligations.ParseLoadsBigEndianWords := fun B x _ =>
  ⟨fun _ hj => (toNat_readW_parseBlock B x hj).trans (memRead_eight B _), fun _ ht => readW_parseLoop_of_le B x ht,
    onlyWDiffers_parseLoop B x 16⟩

/-! ## Rotate and shift (R81, R82) -/

theorem rotr_eq_rotateRight (x : Word) {n : Nat} (hn : n < 64) : rotr x n = x.rotateRight n := by
  rw [BitVec.rotateRight_def, Nat.mod_eq_of_lt hn, rotr]

theorem getLsbD_rotr (x : Word) {n i : Nat} (hn : n < 64) (hi : i < 64) :
    (rotr x n).getLsbD i = x.getLsbD ((i + n) % 64) := by
  rw [rotr_eq_rotateRight x hn, BitVec.getLsbD_rotateRight, Nat.mod_eq_of_lt hn]
  by_cases hstay : i < 64 - n
  · simp [hstay, show (i + n) % 64 = n + i by omega]
  · simp [hstay, hi, show (i + n) % 64 = i - (64 - n) by omega]

theorem toNat_rotr (x : Word) (n : Nat) :
    (rotr x n).toNat = ((x.toNat >>> n) ||| (x.toNat <<< (64 - n))) % 2 ^ 64 := by
  have hshift : x.toNat >>> n < 2 ^ 64 := lt_of_le_of_lt (Nat.shiftRight_le _ n) x.isLt
  rw [rotr, BitVec.toNat_or, BitVec.toNat_ushiftRight, BitVec.toNat_shiftLeft, Nat.or_mod_two_pow,
    Nat.mod_eq_of_lt hshift]

theorem getLsbD_shr (x : Word) (n i : Nat) : (shr x n).getLsbD i = x.getLsbD (i + n) := by
  rw [shr, BitVec.getLsbD_ushiftRight, Nat.add_comm]

theorem toNat_shr (x : Word) (n : Nat) : (shr x n).toNat = x.toNat / 2 ^ n := by
  rw [shr, BitVec.toNat_ushiftRight, Nat.shiftRight_eq_div_pow]

/-- Settles O1: ROTR is the library's rotate; the examples are computed. -/
theorem rotateAndShiftMoveBits : Obligations.RotateAndShiftMoveBits :=
  ⟨fun x n _ hn => ⟨toNat_rotr x n, fun _ hi => getLsbD_rotr x (Nat.lt_succ_of_le hn) hi⟩, toNat_shr, by decide⟩

/-! ## Ch and Maj (R84, R85) -/

theorem getLsbD_ch (e f g : Word) {i : Nat} (hi : i < 64) :
    (ch e f g).getLsbD i = if e.getLsbD i then f.getLsbD i else g.getLsbD i := by
  rw [ch, BitVec.getLsbD_xor, BitVec.getLsbD_and, BitVec.getLsbD_and, BitVec.getLsbD_not]
  cases e.getLsbD i <;> simp [hi]

theorem getLsbD_maj (a b c : Word) (i : Nat) :
    (maj a b c).getLsbD i =
      decide (2 ≤ (a.getLsbD i).toNat + (b.getLsbD i).toNat + (c.getLsbD i).toNat) := by
  simp only [maj, BitVec.getLsbD_xor, BitVec.getLsbD_and]
  cases a.getLsbD i <;> cases b.getLsbD i <;> cases c.getLsbD i <;> rfl

/-- Every bit of the word of ones is 1. -/
theorem getLsbD_ones {i : Nat} (hi : i < 64) : (0xffffffffffffffff : Word).getLsbD i = true :=
  (BitVec.getLsbD_allOnes (v := 64)).trans (decide_eq_true hi)

theorem ch_zero (f g : Word) : ch 0 f g = g :=
  BitVec.eq_of_getLsbD_eq fun i hi => by simp [getLsbD_ch _ _ _ hi]

theorem ch_ones (f g : Word) : ch 0xffffffffffffffff f g = f :=
  BitVec.eq_of_getLsbD_eq fun i hi => by rw [getLsbD_ch _ _ _ hi, getLsbD_ones hi, if_pos rfl]

theorem ch_self (e x : Word) : ch e x x = x :=
  BitVec.eq_of_getLsbD_eq fun i hi => by rw [getLsbD_ch _ _ _ hi, ite_self]

theorem maj_self (x y : Word) : maj x x y = x :=
  BitVec.eq_of_getLsbD_eq fun i _ => by
    rw [getLsbD_maj]
    cases x.getLsbD i <;> cases y.getLsbD i <;> rfl

theorem maj_zero (b c : Word) : maj 0 b c = b &&& c := by
  simp [maj]

theorem maj_ones (b c : Word) : maj 0xffffffffffffffff b c = b ||| c :=
  BitVec.eq_of_getLsbD_eq fun i hi => by
    rw [getLsbD_maj, BitVec.getLsbD_or, getLsbD_ones hi]
    cases b.getLsbD i <;> cases c.getLsbD i <;> rfl

/-- Settles O2: the corner cases from the formulas and bit by bit from the selection; the examples are computed. -/
theorem chooseAndMajoritySelectBits : Obligations.ChooseAndMajoritySelectBits :=
  ⟨fun e f g _ hi => getLsbD_ch e f g hi, fun f g => ⟨ch_zero f g, ch_ones f g⟩, ch_self, by decide,
    fun a b c i _ => getLsbD_maj a b c i, maj_self, fun b c => ⟨maj_zero b c, maj_ones b c⟩, by decide⟩

/-! ## The sigma functions (R86 to R89) -/

theorem getLsbD_bigSigma0 (x : Word) {i : Nat} (hi : i < 64) :
    (bigSigma0 x).getLsbD i =
      (x.getLsbD ((i + 28) % 64) ^^ x.getLsbD ((i + 34) % 64) ^^ x.getLsbD ((i + 39) % 64)) := by
  simp only [bigSigma0, BitVec.getLsbD_xor, getLsbD_rotr, hi, Nat.reduceLT]

theorem getLsbD_bigSigma1 (x : Word) {i : Nat} (hi : i < 64) :
    (bigSigma1 x).getLsbD i =
      (x.getLsbD ((i + 14) % 64) ^^ x.getLsbD ((i + 18) % 64) ^^ x.getLsbD ((i + 41) % 64)) := by
  simp only [bigSigma1, BitVec.getLsbD_xor, getLsbD_rotr, hi, Nat.reduceLT]

theorem getLsbD_smallSigma0 (x : Word) {i : Nat} (hi : i < 64) :
    (smallSigma0 x).getLsbD i =
      (x.getLsbD ((i + 1) % 64) ^^ x.getLsbD ((i + 8) % 64) ^^ x.getLsbD (i + 7)) := by
  simp only [smallSigma0, BitVec.getLsbD_xor, getLsbD_rotr, getLsbD_shr, hi, Nat.reduceLT]

theorem getLsbD_smallSigma1 (x : Word) {i : Nat} (hi : i < 64) :
    (smallSigma1 x).getLsbD i =
      (x.getLsbD ((i + 19) % 64) ^^ x.getLsbD ((i + 61) % 64) ^^ x.getLsbD (i + 6)) := by
  simp only [smallSigma1, BitVec.getLsbD_xor, getLsbD_rotr, getLsbD_shr, hi, Nat.reduceLT]

/-- Settles O3: each term brings in one bit; the examples are computed. -/
theorem sigmaFunctionsByBit : Obligations.SigmaFunctionsByBit :=
  ⟨fun x _ hi => ⟨getLsbD_bigSigma0 x hi, getLsbD_bigSigma1 x hi, getLsbD_smallSigma0 x hi,
    getLsbD_smallSigma1 x hi⟩, by decide⟩

end Sys2Proof.Machine

/-! # Streaming context proofs (family 41_streaming_context)

The commands as equations on the whole state, lists of UPDATEs as one absorbed byte string, and the padded tail against
the padding of the whole message; then the theorems that settle the statements on the streaming context. -/

namespace Sys2Proof.Machine

/-! ## Two states with equal registers -/

@[ext] theorem State.ext {s t : State} (hH : s.H = t.H) (hbuf : s.buf = t.buf) (hlen : s.len = t.len)
    (hphase : s.phase = t.phase) (hfault : s.fault = t.fault) (hfcause : s.fcause = t.fcause) (hrxq : s.rxq = t.rxq)
    (hrsp : s.rspOut = t.rspOut) (hscratch : s.scratch = t.scratch) (hcount : s.freeCount = t.freeCount) : s = t := by
  cases s; cases t
  cases hH; cases hbuf; cases hlen; cases hphase; cases hfault; cases hfcause; cases hrxq; cases hrsp; cases hscratch
  cases hcount
  rfl

theorem sameContext_refl (s : State) : SameContext s s :=
  ⟨rfl, rfl, rfl, rfl⟩

/-! ## The step of a whole packet (41_streaming_context.md R100) -/

/-- Settles O31: the decoder reads the packet back, whatever follows it. -/
theorem stepRunsDecodedCommand : Obligations.StepRunsDecodedCommand := by
  intro s i rest hf hwf hrxq
  have hd : decode s.rxq = .packet i rest := by rw [hrxq, decode_encode_append hwf rest]
  exact step_of_packet hf hd

/-! ## INIT (R101) -/

/-- A good Fresh state is its own return to Fresh (10_state.md R33 I-d). -/
theorem resetContext_of_fresh {s : State} (hinv : StateInv s) (hfresh : s.phase = .fresh) : s.resetContext = s := by
  obtain ⟨-, -, hctx, -, -⟩ := hinv
  obtain ⟨hH, hbuf, hlen⟩ := hctx hfresh
  ext1 <;> simp [hH, hbuf, hlen, hfresh]

/-- Settles O13: INIT is the return to Fresh and the response. -/
theorem initReturnsContextToFresh : Obligations.InitReturnsContextToFresh := by
  refine ⟨rfl, fun s => rfl, fun s hinv hfresh => ?_⟩
  rw [exec_init, resetContext_of_fresh hinv hfresh]
  rfl

/-! ## UPDATE (R102 to R104) -/

/-- Settles O14: the model's equation for the empty payload. -/
theorem emptyUpdateChangesNothing : Obligations.EmptyUpdateChangesNothing :=
  ⟨rfl, exec_update_nil⟩

/-- LEN's addition as an integer modulo 2^128 (R117). -/
theorem len_add_ofNat (len : U128) (n : Nat) :
    len + BitVec.ofNat 128 n = BitVec.ofNat 128 ((len.toNat + n) % 2 ^ 128) := by
  apply BitVec.eq_of_toNat_eq
  simp

theorem phaseAfterUpdate_length (D : List Byte) (p : Phase) :
    phaseAfterUpdate D.length p = if D = [] then p else .accum := by
  cases D <;> simp [phaseAfterUpdate]

/-- UPDATE's packet, the length high byte first (30_encoding.md R61, R65). -/
theorem encode_update (D : List Byte) :
    encode (.update D) =
      [0x02, 0x00, BitVec.ofNat 8 (D.length / 256), BitVec.ofNat 8 (D.length % 256)] ++ D := by
  have hlow : BitVec.ofNat 8 D.length = BitVec.ofNat 8 (D.length % 256) :=
    BitVec.eq_of_toNat_eq (by simp)
  simp only [encode, encodeHeader, Instr.opc, Instr.payload, hlow]

/-- How often UPDATE invokes the CORE, and that it leaves the scratch registers when it does not (R104). -/
theorem absorbPayload_invocations (D : List Byte) {s : State} (h : s.buf.length ≤ 127) :
    (absorbPayload D s).freeCount = s.freeCount + (s.buf.length + D.length) / 128 ∧
    ((s.buf.length + D.length) / 128 = 0 → (absorbPayload D s).scratch = s.scratch) := by
  obtain ⟨-, -, hcount, hscratch⟩ := absorb_spec D ((s.addLen D.length).setPhaseAfterUpdate D.length) h
  exact ⟨hcount, hscratch⟩

/-- Settles O15: register by register, by what UPDATE's loop does and what it leaves alone. -/
theorem updateAbsorbsPayload : Obligations.UpdateAbsorbsPayload := by
  intro D s hN
  obtain ⟨hH, hbuf⟩ := absorbPayload_blocks D hN
  obtain ⟨hcount, hscratch⟩ := absorbPayload_invocations D hN
  obtain ⟨hlen, hphase, hfault, hfcause, hrxq, hrsp⟩ := absorbPayload_frame D s
  refine ⟨encode_update D, (absorbPayload D s).scratch, ?_, hscratch⟩
  rw [exec_update]
  refine congrArg Host.Outcome.next (State.ext hH hbuf ?_ ?_ hfault hfcause hrxq ?_ rfl hcount)
  · exact hlen.trans (len_add_ofNat s.len D.length)
  · exact hphase.trans (phaseAfterUpdate_length D s.phase)
  · exact congrArg (· ++ [statusOk]) hrsp

/-- Settles O20: the two halves of an addition modulo 2^128. -/
theorem lengthCarriesIntoHighHalf : Obligations.LengthCarriesIntoHighHalf := by
  intro D s t hD h
  rw [exec_update] at h
  cases h
  obtain ⟨hlen, -⟩ := absorbPayload_frame D s
  have hsum : ((absorbPayload D s).respond [statusOk]).len.toNat = (s.len.toNat + D.length) % 2 ^ 128 := by
    rw [State.respond_len, hlen, BitVec.toNat_add, BitVec.toNat_ofNat, Nat.add_mod_mod]
  rw [hsum]
  have hbound := s.len.isLt
  constructor
  · omega
  · split <;> omega

/-! ## Lists of commands -/

theorem execAll_cons {i : Instr} {s t : State} (h : exec i s = .next t) (is : List Instr) :
    execAll (i :: is) s = execAll is t := by
  simp only [execAll, h]

/-- A list of commands is its first part, then the rest from where that ends. -/
theorem execAll_append {is : List Instr} {s t : State} (h : execAll is s = some t) (js : List Instr) :
    execAll (is ++ js) s = execAll js t := by
  induction is generalizing s with
  | nil => cases h; rfl
  | cons i is ih =>
    obtain ⟨u, hu⟩ := exec_completes i s
    rw [execAll_cons hu] at h
    rw [List.cons_append, execAll_cons hu, ih h]

/-- Two engines with the same context answer a list of commands alike (10_state.md R35). -/
theorem execAll_sameContext (is : List Instr) {s t : State} (h : SameContext s t) :
    ∃ u v r, execAll is s = some u ∧ execAll is t = some v ∧
      u.rspOut = s.rspOut ++ r ∧ v.rspOut = t.rspOut ++ r := by
  induction is generalizing s t with
  | nil => exact ⟨s, t, [], rfl, rfl, by simp, by simp⟩
  | cons i is ih =>
    obtain ⟨s', hs'⟩ := exec_completes i s
    obtain ⟨t', p, ht', hctx, hps, hpt⟩ := exec_sameContext h hs'
    obtain ⟨u, v, r, hu, hv, hru, hrv⟩ := ih hctx
    exact ⟨u, v, p ++ r, (execAll_cons hs' is).trans hu, (execAll_cons ht' is).trans hv, by simp [hru, hps],
      by simp [hrv, hpt]⟩

/-- Settles O29: FINALIZE ends in the return to Fresh, and the same context gives the same responses. -/
theorem reuseAfterFinalizeIsFresh : Obligations.ReuseAfterFinalizeIsFresh := by
  intro s t is h
  have hfresh : SameContext t State.reset := by
    cases h
    exact ⟨rfl, rfl, rfl, rfl⟩
  obtain ⟨u, v, r, hu, hv, hru, hrv⟩ := execAll_sameContext is hfresh
  exact ⟨hfresh, u, v, hu, hv, by rw [hru, hrv]; rfl⟩

/-! ## UPDATEs one after the other (R111) -/

theorem absorbByte_addLen (n : Nat) (s : State) (d : Byte) : absorbByte (s.addLen n) d = (absorbByte s d).addLen n := by
  by_cases h : s.buf.length + 1 = 128
  · rw [absorbByte_full d h, absorbByte_full (s := s.addLen n) d h]; rfl
  · rw [absorbByte_short d h, absorbByte_short (s := s.addLen n) d h]; rfl

theorem absorbByte_setPhaseAfterUpdate (n : Nat) (s : State) (d : Byte) :
    absorbByte (s.setPhaseAfterUpdate n) d = (absorbByte s d).setPhaseAfterUpdate n := by
  by_cases h : s.buf.length + 1 = 128
  · rw [absorbByte_full d h, absorbByte_full (s := s.setPhaseAfterUpdate n) d h]; rfl
  · rw [absorbByte_short d h, absorbByte_short (s := s.setPhaseAfterUpdate n) d h]; rfl

/-- UPDATE's loop neither reads nor writes LEN and PHASE, so they may as well be set after it. -/
theorem absorb_addLen_setPhaseAfterUpdate (n : Nat) (D : List Byte) (s : State) :
    absorb D ((s.addLen n).setPhaseAfterUpdate n) = ((absorb D s).addLen n).setPhaseAfterUpdate n := by
  induction D generalizing s with
  | nil => rfl
  | cons d D ih =>
    calc absorb (d :: D) ((s.addLen n).setPhaseAfterUpdate n)
        = absorb D (absorbByte ((s.addLen n).setPhaseAfterUpdate n) d) := rfl
      _ = absorb D (((absorbByte s d).addLen n).setPhaseAfterUpdate n) := by
        rw [absorbByte_setPhaseAfterUpdate, absorbByte_addLen]
      _ = ((absorb (d :: D) s).addLen n).setPhaseAfterUpdate n := ih (absorbByte s d)

theorem phaseAfterUpdate_add (m n : Nat) (p : Phase) :
    phaseAfterUpdate (m + n) p = phaseAfterUpdate n (phaseAfterUpdate m p) := by
  cases m <;> cases n <;> simp [phaseAfterUpdate]

/-- Counting m bytes and then n is counting m + n. -/
theorem addLen_setPhaseAfterUpdate_add (m n : Nat) (s : State) :
    (s.addLen (m + n)).setPhaseAfterUpdate (m + n) =
      ((((s.addLen m).setPhaseAfterUpdate m).addLen n).setPhaseAfterUpdate n) := by
  ext1 <;> simp [phaseAfterUpdate_add, BitVec.ofNat_add, BitVec.add_assoc]

/-- Absorbing D and then E is absorbing D ++ E. -/
theorem absorbPayload_append (D E : List Byte) (s : State) :
    absorbPayload (D ++ E) s = absorbPayload E (absorbPayload D s) := by
  rw [absorbPayload, List.length_append, addLen_setPhaseAfterUpdate_add, absorb_append,
    absorb_addLen_setPhaseAfterUpdate]
  rfl

/-- UPDATE does not look at the responses already pending. -/
theorem absorbPayload_respond (r D : List Byte) (s : State) :
    absorbPayload D (s.respond r) = (absorbPayload D s).respond r := by
  obtain ⟨-, -, -, -, hrxq, hrsp⟩ := absorbPayload_frame D s
  calc absorbPayload D (s.withPorts s.rxq (s.rspOut ++ r))
      = (absorbPayload D s).withPorts s.rxq (s.rspOut ++ r) := absorbPayload_withPorts _ _ D s
    _ = (absorbPayload D s).withPorts (absorbPayload D s).rxq ((absorbPayload D s).rspOut ++ r) := by rw [hrxq, hrsp]

theorem respond_respond (q r : List Byte) (s : State) : (s.respond q).respond r = s.respond (q ++ r) := by
  simp [State.respond]

/-- A list of UPDATEs absorbs the concatenation of its payloads and answers 00 to each. -/
theorem execAll_updates (cs : List (List Byte)) (s : State) :
    execAll (cs.map .update) s =
      some ((absorbPayload cs.flatten s).respond (List.replicate cs.length statusOk)) := by
  induction cs generalizing s with
  | nil => simp [execAll, State.respond]
  | cons c cs ih =>
    rw [List.map_cons, execAll_cons (exec_update c s), ih, absorbPayload_respond, respond_respond,
      ← absorbPayload_append]
    rfl

/-- Settles O24: both lists absorb the same byte string, and differ in how many responses they have made. -/
theorem chunkingDoesNotMatter : Obligations.ChunkingDoesNotMatter := by
  intro cs ds s hjoin
  obtain ⟨-, hphase, -⟩ := absorbPayload_frame cs.flatten s
  have hds := execAll_updates ds s
  rw [← hjoin] at hds
  refine ⟨_, _, execAll_updates cs s, hds, sameContext_refl (absorbPayload cs.flatten s), ?_, ?_⟩
  · rw [responseOf_finalize, responseOf_finalize]
    exact congrArg (fun H => some (statusOk :: serialize H)) (compressTail_H_congr _ rfl)
  · exact hphase.trans (phaseAfterUpdate_length cs.flatten s.phase)

/-! ## The padded tail (R105, R106) -/

theorem padZeros_of_le {n : Nat} (h : n ≤ 127) : padZeros n = if n ≤ 111 then 111 - n else 239 - n := by
  rw [padZeros]
  split <;> omega

theorem length_pad (B : List Byte) (len : U128) : (pad B len).length = B.length + 1 + padZeros B.length + 16 := by
  simp only [pad, List.length_append, List.length_singleton, List.length_replicate, length_beBytes]

/-- The padded tail fills one block or two (R106). -/
theorem length_pad_of_le {B : List Byte} (len : U128) (hB : B.length ≤ 127) :
    (pad B len).length = if B.length ≤ 111 then 128 else 256 := by
  rw [length_pad, padZeros_of_le hB]
  split <;> omega

/-- Settles O17: the number of zeros, and the marker's place behind BUF. -/
theorem padFillsWholeBlocks : Obligations.PadFillsWholeBlocks := by
  intro B len hB
  refine ⟨padZeros_of_le hB, ?_, by rw [pad, toNat_bitLength], length_pad_of_le len hB, by simp [pad], by omega⟩
  rw [padZeros_of_le hB]
  split <;> omega

/-- The one final block of a message whose rest leaves room for the length (20_memory.md R49). -/
theorem pad_of_le {B : List Byte} (len : U128) (hB : B.length ≤ 111) :
    pad B len =
      B ++ 0x80 :: List.replicate (111 - B.length) 0x00 ++ beBytes 16 (len.toNat * 8 % 2 ^ 128) := by
  rw [pad, padZeros_of_le (by omega), if_pos hB, toNat_bitLength]
  simp

/-- The two final blocks of a message whose rest does not (R49). -/
theorem pad_of_gt {B : List Byte} (len : U128) (hgt : ¬ B.length ≤ 111) (hB : B.length ≤ 127) :
    pad B len =
      (B ++ 0x80 :: List.replicate (127 - B.length) 0x00) ++
        (List.replicate 112 0x00 ++ beBytes 16 (len.toNat * 8 % 2 ^ 128)) := by
  have hzeros : List.replicate (239 - B.length) (0x00 : Byte) =
      List.replicate (127 - B.length) 0x00 ++ List.replicate 112 0x00 := by
    rw [List.replicate_append_replicate, show 127 - B.length + 112 = 239 - B.length by omega]
  rw [pad, padZeros_of_le hB, if_neg hgt, toNat_bitLength, hzeros]
  simp only [List.append_assoc, List.cons_append]
  rfl

/-! ## FINALIZE (R108) -/

/-- The chaining value after the final blocks, written out (R106, R49). -/
theorem compressTail_pad_H {s : State} (hN : s.buf.length ≤ 127) :
    (compressTail (pad s.buf s.len) s).H =
      if s.buf.length ≤ 111 then
        compress s.H (s.buf ++ 0x80 :: List.replicate (111 - s.buf.length) 0x00 ++
          beBytes 16 (s.len.toNat * 8 % 2 ^ 128))
      else
        compress (compress s.H (s.buf ++ 0x80 :: List.replicate (127 - s.buf.length) 0x00))
          (List.replicate 112 0x00 ++ beBytes 16 (s.len.toNat * 8 % 2 ^ 128)) := by
  obtain ⟨hH, -⟩ := compressTail_spec (pad s.buf s.len) s
  have hlength := length_pad_of_le s.len hN
  rw [hH]
  by_cases hle : s.buf.length ≤ 111
  · rw [if_pos hle] at hlength ⊢
    rw [hlength, if_neg (by decide), List.take_of_length_le hlength.le, pad_of_le s.len hle]
  · rw [if_neg hle] at hlength ⊢
    have hfirst : (s.buf ++ 0x80 :: List.replicate (127 - s.buf.length) (0x00 : Byte)).length = 128 := by
      simp; omega
    rw [hlength, if_pos rfl, pad_of_gt s.len hle hN, List.take_left' hfirst, List.drop_left' hfirst,
      List.take_of_length_le (by simp)]

theorem compressTail_freeCount (P : List Byte) (s : State) :
    (compressTail P s).freeCount = s.freeCount + if P.length = 256 then 2 else 1 := by
  simp only [compressTail]
  split <;> rfl

/-- How often FINALIZE invokes the CORE (R106). -/
theorem compressTail_pad_freeCount {s : State} (hN : s.buf.length ≤ 127) :
    (compressTail (pad s.buf s.len) s).freeCount = s.freeCount + if s.buf.length ≤ 111 then 1 else 2 := by
  rw [compressTail_freeCount, length_pad_of_le s.len hN]
  by_cases hle : s.buf.length ≤ 111 <;> simp [hle]

/-- Settles O16: register by register, by what the final blocks do and the return to Fresh. -/
theorem finalizeAnswersDigestAndResets : Obligations.FinalizeAnswersDigestAndResets := by
  refine ⟨rfl, fun s hN => ⟨(compressTail (pad s.buf s.len) s).scratch, ?_⟩⟩
  obtain ⟨-, -, -, -, hfault, hfcause, hrxq, hrsp⟩ := compressTail_spec (pad s.buf s.len) s
  rw [exec_finalize, compressTail_pad_H hN]
  refine congrArg Host.Outcome.next (State.ext rfl rfl rfl rfl hfault hfcause hrxq ?_ rfl ?_)
  · exact congrArg (· ++ _) hrsp
  · exact compressTail_pad_freeCount hN

/-- Settles O23: each command's effect on PHASE and, where the table notes no change, on the context. -/
theorem phaseFollowsTransitionTable : Obligations.PhaseFollowsTransitionTable := by
  refine fun s => ⟨⟨_, exec_init s, rfl, fun hinv hfresh => ?_⟩, ⟨_, exec_update_nil s, rfl, sameContext_refl s⟩,
    fun d D => ⟨_, exec_update (d :: D) s, ?_⟩, ⟨_, exec_finalize s, rfl⟩, rfl⟩
  · rw [resetContext_of_fresh hinv hfresh]
    exact sameContext_refl s
  · obtain ⟨-, hphase, -⟩ := absorbPayload_frame (d :: D) s
    exact hphase.trans (phaseAfterUpdate_length (d :: D) s.phase)

/-! ## The digest of the absorbed message (R113, R114) -/

/-- FINALIZE's compressions of a tail of one or two blocks fold them (R108). -/
theorem compressTail_H_eq_foldBlocks {P : List Byte} (hP : P.length = 128 ∨ P.length = 256) (s : State) :
    (compressTail P s).H = foldBlocks compress s.H (P.length / 128) P := by
  obtain ⟨hH, -⟩ := compressTail_spec P s
  obtain h | h := hP <;> rw [hH, h] <;> rfl

/-- Folding n blocks reads the first 128 n bytes alone. -/
theorem foldBlocks_take (f : Hash → List Byte → Hash) (S : Hash) {n : Nat} {P : List Byte} (h : 128 * n ≤ P.length) :
    foldBlocks f S n (P.take (128 * n)) = foldBlocks f S n P := by
  rw [← foldBlocks_append f S n (P.take (128 * n)) (P.drop (128 * n)) (List.length_take_of_le h).ge,
    List.take_append_drop]

/-- On whole blocks the CORE's fold is the reference's. -/
theorem foldBlocks_compress_eq (S : Hash) {n : Nat} {P : List Byte} (h : 128 * n ≤ P.length) :
    foldBlocks compress S n P = foldBlocks refCompress S n P := by
  induction n generalizing S P with
  | zero => simp only [foldBlocks]
  | succ n ih =>
    have hblock : (P.take 128).length = 128 := List.length_take_of_le (by omega)
    have hrest : 128 * n ≤ (P.drop 128).length := by rw [List.length_drop]; omega
    rw [foldBlocks, foldBlocks, compress_eq_refCompress S hblock, ih _ hrest]

theorem length_buf_of_absorbed {M : List Byte} {s : State} (h : Absorbed M s) : s.buf.length = M.length % 128 := by
  obtain ⟨-, hbuf, -⟩ := h
  rw [hbuf, List.length_drop]
  omega

/-- Padding the whole message is padding what is left of it behind its whole blocks (R105), as long as LEN has not lost a
bit of its length (R115). -/
theorem refPad_eq_append {M : List Byte} {s : State} (h : Absorbed M s) (hM : M.length < 2 ^ 125) :
    refPad M = M.take (128 * (M.length / 128)) ++ pad s.buf s.len := by
  have hN := length_buf_of_absorbed h
  obtain ⟨-, hbuf, hlen⟩ := h
  have hzeros : padZeros s.buf.length = (239 - M.length % 128) % 128 := by
    rw [hN, padZeros_of_le (by omega)]
    split <;> omega
  have hbits : s.len.toNat * 8 % 2 ^ 128 = 8 * M.length := by omega
  rw [pad, hzeros, toNat_bitLength, hbits, hbuf, ← List.append_assoc, ← List.append_assoc, ← List.append_assoc,
    List.take_append_drop, refPad, List.append_assoc M [0x80]]
  rfl

/-- FINALIZE's blocks behind the whole blocks of the message are the reference's fold of the padded message. -/
theorem serialize_compressTail_of_absorbed {M : List Byte} {s : State} (h : Absorbed M s) (hM : M.length < 2 ^ 125) :
    serialize (compressTail (pad s.buf s.len) s).H = sha384 M := by
  have hpad := refPad_eq_append h hM
  have hN := length_buf_of_absorbed h
  obtain ⟨hH, -, -⟩ := h
  have htail : (pad s.buf s.len).length = 128 ∨ (pad s.buf s.len).length = 256 := by
    rw [length_pad_of_le s.len (by omega)]
    split <;> simp
  have hfront : (M.take (128 * (M.length / 128))).length = 128 * (M.length / 128) :=
    List.length_take_of_le (Nat.mul_div_le _ _)
  have hblocks : (refPad M).length / 128 = M.length / 128 + (pad s.buf s.len).length / 128 := by
    rw [hpad, List.length_append, hfront]
    omega
  have hwhole : foldBlocks compress iv (M.length / 128) (refPad M) = s.H := by
    rw [hpad, foldBlocks_append _ _ _ _ _ hfront.ge, hH, foldBlocks_take _ _ (Nat.mul_div_le _ _)]
  rw [sha384, ← foldBlocks_compress_eq iv (Nat.mul_div_le _ _), hblocks, foldBlocks_add, hwhole, hpad,
    List.drop_left' hfront, compressTail_H_eq_foldBlocks htail]

/-- Settles O26: FINALIZE's digest is the reference's digest of the absorbed message. -/
theorem finalizeAnswersSha384 : Obligations.FinalizeAnswersSha384 := by
  intro M s hM hlength
  rw [responseOf_finalize, serialize_compressTail_of_absorbed hM hlength]
  rfl

/-- Settles O49: the kernel computes the reference on one block each. -/
theorem pinnedDigests : Obligations.PinnedDigests := by
  unfold Obligations.PinnedDigests
  decide +kernel

/-! ## ONESHOT (R114, 30_encoding.md R71) -/

/-- The commands of ONESHOT fit their packets. -/
theorem wf_of_mem_expand_oneShot {M : List Byte} {i : Instr} (h : i ∈ expand (.oneShot M)) : i.wf = true := by
  obtain ⟨-, hmax, -⟩ := updatelPiecesJoinToOperand M
  have hcases : i = .init ∨ (∃ c ∈ chunks M, Instr.update c = i) ∨ i = .finalize := by
    simpa [expand] using h
  obtain rfl | ⟨c, hc, rfl⟩ | rfl := hcases
  · rfl
  · exact decide_eq_true (hmax c hc)
  · rfl

/-- The engine after ONESHOT's INIT and UPDATEs. -/
def oneShotAbsorbed (M : List Byte) (s : State) : State :=
  (absorbPayload M (s.resetContext.respond [statusOk])).respond (List.replicate (chunks M).length statusOk)

theorem execAll_expand_oneShot (M : List Byte) (s : State) :
    execAll (expand (.oneShot M)) s = execAll [.finalize] (oneShotAbsorbed M s) := by
  obtain ⟨hjoin, -⟩ := updatelPiecesJoinToOperand M
  have hupdates := execAll_updates (chunks M) (s.resetContext.respond [statusOk])
  rw [hjoin] at hupdates
  exact (execAll_cons (exec_init s) _).trans (execAll_append hupdates [.finalize])

theorem absorbed_oneShotAbsorbed (M : List Byte) (s : State) : Absorbed M (oneShotAbsorbed M s) :=
  absorbed_absorbPayload (M := []) (s := s.resetContext.respond [statusOk]) (absorbed_nil_resetContext s) M

theorem rspOut_oneShotAbsorbed (M : List Byte) (s : State) :
    (oneShotAbsorbed M s).rspOut = s.rspOut ++ List.replicate (1 + (chunks M).length) 0x00 := by
  obtain ⟨-, -, -, -, -, hrsp⟩ := absorbPayload_frame M (s.resetContext.respond [statusOk])
  rw [oneShotAbsorbed, State.respond_rspOut, hrsp, State.respond_rspOut, State.resetContext_rspOut,
    List.append_assoc, List.replicate_add]
  rfl

/-- What a command appends is its response (30_encoding.md R68). -/
theorem rspOut_of_responseOf {i : Instr} {s t : State} {r : List Byte} (h : exec i s = .next t)
    (hr : responseOf i s = some r) : t.rspOut = s.rspOut ++ r := by
  obtain ⟨p, -, hp, -⟩ := exec_response h
  have hpr : p = r := by simpa [responseOf, h, hp] using hr
  rw [hp, hpr]

/-- Settles O27: the packets run as their commands, and the FINALIZE at their end answers for the message that the UPDATEs
absorbed after INIT. -/
theorem oneShotAnswersSha384 : Obligations.OneShotAnswersSha384 := by
  intro M s hM hs
  obtain ⟨t, ht, hdrive, hcomplete⟩ := packetsRunInOrder (expand (.oneShot M)) s hs fun i => wf_of_mem_expand_oneShot
  have hfinal : exec .finalize (oneShotAbsorbed M s) = .next t := by
    rw [execAll_expand_oneShot, execAll_cons (exec_finalize _)] at ht
    cases ht
    exact exec_finalize _
  have hdigest := finalizeAnswersSha384 M _ (absorbed_oneShotAbsorbed M s) hM
  obtain ⟨hfresh, -⟩ := reuseAfterFinalizeIsFresh _ t [] hfinal
  rw [hdrive]
  exact ⟨hcomplete, hfresh, by rw [rspOut_of_responseOf hfinal hdigest, rspOut_oneShotAbsorbed]⟩

end Sys2Proof.Machine

/-! # Exceptions proofs (family 60_exceptions)

What an illegal header does alone and behind a list of packets, what a history does to a faulted engine, and the engines
of a system one by one; then the theorems that settle the statements on exceptions. -/

namespace Sys2Proof

/-! ## Illegal headers and the decoder (60_exceptions.md R122, R123) -/

/-- An illegal class is found whatever bytes follow the header, and none of them is taken. -/
theorem takePayload_eq_illegal_iff {k : HeaderClass} {rest rest' : List Byte} {c : Cause} :
    takePayload k rest = .illegal c rest' ↔ k = .illegal c ∧ rest = rest' := by
  cases k with
  | illegal c' => simp [takePayload]
  | init => simp [takePayload]
  | finalize => simp [takePayload]
  | update n =>
    simp only [takePayload, reduceCtorEq, false_and, iff_false]
    split <;> exact nofun

/-- Bytes behind an illegal header do not change its cause (R124). -/
theorem decode_illegal_header {b0 b1 b2 b3 : Byte} {c : Cause} (h : decode [b0, b1, b2, b3] = .illegal c [])
    (later : List Byte) : decode (b0 :: b1 :: b2 :: b3 :: later) = .illegal c later := by
  rw [decode_header, takePayload_eq_illegal_iff] at h ⊢
  exact ⟨h.1, rfl⟩

end Sys2Proof

namespace Sys2Proof.Machine

/-! ## Commands, waiting and the decode fault (R120, R122 to R124, R132) -/

/-- Settles O21: by the answer of each command. -/
theorem everyCommandCompletes : Obligations.EveryCommandCompletes :=
  exec_answers

/-- Settles O32: the decoder waits on every part of a packet. -/
theorem incompletePacketHoldsState : Obligations.IncompletePacketHoldsState := by
  intro s i k hf hwf hk hrxq
  have hwait : decode s.rxq = .wait := by rw [hrxq, partOfPacketWaits i k hwf hk]
  exact step_of_wait hf hwait

/-- Without an illegal header in front, a step keeps FAULT and FCAUSE (R120, R132). -/
theorem step_keeps_fault_of_legal {s : State} (hf : s.fault = false)
    (hlegal : ∀ c rest, decode s.rxq ≠ .illegal c rest) :
    ∃ t, step s = .next t ∧ t.fault = false ∧ t.fcause = s.fcause := by
  obtain ⟨t, ht⟩ := step_completes hf
  refine ⟨t, ht, ?_⟩
  obtain ⟨-, ⟨-, rfl⟩ | ⟨c, rest, hill, -⟩ | ⟨i, rest, -, hexec⟩⟩ := step_cases ht
  · exact ⟨hf, rfl⟩
  · exact absurd hill (hlegal c rest)
  · obtain ⟨hfault, hfcause⟩ := exec_keeps_fault hexec
    exact ⟨hfault.trans hf, hfcause⟩

/-- Settles O33: each clause picks its branch of the decoder's chain. -/
theorem illegalHeaderTakesDecodeFault : Obligations.IllegalHeaderTakesDecodeFault := by
  intro s b0 b1 b2 b3 rest hf hrxq
  obtain ⟨-, hchain⟩ := decoderClassifiesInOrder
  have hd := hchain b0 b1 b2 b3 rest
  rw [← hrxq] at hd
  refine ⟨fun hopc => ?_, fun ⟨hlow, hhigh, hreserved⟩ => ?_, fun ⟨hlow, hhigh, hrsv, hplen⟩ => ?_⟩
  · rw [if_pos (by omega)] at hd
    exact step_of_illegal hf hd
  · rw [if_neg (by omega)] at hd
    have hill : decode s.rxq = .illegal .reservedNonzero rest := by
      by_cases hrsv : b1.toNat = 0
      · rw [hd, if_neg (by omega), if_pos (by omega)]
      · rw [hd, if_pos hrsv]
    exact step_of_illegal hf hill
  · rw [if_neg (by omega), if_neg (by omega), if_neg (by omega)] at hd
    refine step_keeps_fault_of_legal hf fun c later => ?_
    rw [hd]
    split_ifs <;> exact nofun

/-! ## An illegal header behind other packets (R124) -/

theorem fault_of_execAll {is : List Instr} {s t : State} (h : execAll is s = some t) : t.fault = s.fault := by
  obtain ⟨u, hu, hfault, -⟩ := execAll_completes is s
  rwa [Option.some.inj (h.symm.trans hu)]

/-- A run of packets with more bytes behind them executes the packets and has at least a step left
for each of those bytes. -/
theorem drive_packets_append {is : List Instr} {s t : State} (hs : RunComplete s) (hwf : ∀ i ∈ is, i.wf = true)
    (h : execAll is s = some t) (later : List Byte) :
    ∃ n, later.length ≤ n ∧ drive (encodeAll is ++ later) s = runSteps n (t.takePacket later) := by
  obtain ⟨n, hn⟩ := Nat.exists_eq_add_of_le (length_le_encodeAll is)
  refine ⟨n + later.length, Nat.le_add_left _ _, ?_⟩
  rw [drive, receive_of_runComplete hs, State.takePacket_rxq, List.length_append, hn, Nat.add_assoc]
  exact runSteps_packets is hs.1 hwf h _ later

/-- An illegal header behind the packets: they execute, the next step takes the fault, and the steps left over find
the engine inert. -/
theorem drive_packets_illegal {is : List Instr} {s t : State} (hs : RunComplete s) (hwf : ∀ i ∈ is, i.wf = true)
    (h : execAll is s = some t) {bytes rest : List Byte} {c : Cause} (hill : decode bytes = .illegal c rest) :
    drive (encodeAll is ++ bytes) s = t.enterFault c := by
  obtain ⟨n, hn, hdrive⟩ := drive_packets_append hs hwf h bytes
  have hpos : 0 < bytes.length := List.length_pos_iff.mpr (by rintro rfl; exact nomatch hill)
  obtain ⟨m, rfl⟩ : ∃ m, n = m + 1 := Nat.exists_eq_add_one.mpr (lt_of_lt_of_le hpos hn)
  have hf : t.fault = false := (fault_of_execAll h).trans hs.1
  have hstep : step (t.takePacket bytes) = .next (t.enterFault c) :=
    step_of_illegal (s := t.takePacket bytes) hf hill
  calc drive (encodeAll is ++ bytes) s
      = runSteps (m + 1) (t.takePacket bytes) := hdrive
    _ = runSteps m (t.enterFault c) := by rw [runSteps, onEvent_engine_of_next hstep]
    _ = t.enterFault c := runSteps_faulted (State.enterFault_fault c t) m

/-- Settles O34: bytes behind an illegal header do not change its cause. -/
theorem decodeFaultIsPrecise : Obligations.DecodeFaultIsPrecise := by
  intro is s b0 b1 b2 b3 later c hs hwf hill
  obtain ⟨t, ht, -⟩ := execAll_completes is s
  exact ⟨t, ht, drive_packets_illegal hs hwf ht (decode_illegal_header hill later)⟩

/-! ## The faulted engine (R125, R126) -/

/-- Without a hardware reset, a history takes from a faulted engine a pending byte at each read and does nothing else. -/
theorem onEvents_of_faulted {es : List Event} {s : State} (hf : s.fault = true) (h : .host .hwReset ∉ es) :
    onEvents es s = { s with rspOut := s.rspOut.drop (es.count (.host .read)) } := by
  induction es generalizing s with
  | nil => rfl
  | cons e es ih =>
    obtain ⟨he, hes⟩ := not_or.mp (mt List.mem_cons.mpr h)
    match e with
    | .engine =>
      rw [onEvents_cons, onEvent_engine_of_faulted hf, List.count_cons_of_ne (by simp)]
      exact ih hf hes
    | .host (.send b) =>
      have hsend : onEvent (.host (.send b)) s = s := receiveByte_faulted b hf
      rw [onEvents_cons, hsend, List.count_cons_of_ne (by simp)]
      exact ih hf hes
    | .host .read =>
      have hread : onEvent (.host .read) s = s.readResponse := rfl
      rw [onEvents_cons, hread, ih (s := s.readResponse) hf hes, List.count_cons_self, ← List.drop_tail]
      rfl
    | .host .hwReset => exact absurd rfl he

/-- Settles O36: by induction on the history. -/
theorem faultedEngineIsInert : Obligations.FaultedEngineIsInert :=
  fun _ _ hf h => ⟨step_of_faulted hf, onEvents_of_faulted hf fun hmem => h _ hmem rfl⟩

/-- Settles O37: a history without a hardware reset touches RSP_OUT alone. -/
theorem onlyHardwareResetClearsFault : Obligations.OnlyHardwareResetClearsFault := by
  refine ⟨fun s => ⟨rfl, rfl, sameContext_refl _⟩, fun s es hf => ?_⟩
  have hkeep (h : .host .hwReset ∉ es) :
      (onEvents es s).fault = true ∧ (onEvents es s).fcause = s.fcause := by
    rw [onEvents_of_faulted hf h]
    exact ⟨hf, rfl⟩
  refine ⟨fun hclear => ?_, hkeep⟩
  by_contra h
  obtain ⟨hfault, -⟩ := hkeep h
  exact nomatch hfault.symm.trans hclear

/-! ## Several engines (R130) -/

theorem onSystem_same {n : Nat} (k : Fin n) (e : Event) (y : System n) : (onSystem k e y)[k] = onEvent e y[k] :=
  Vector.getElem_set_self _

theorem onSystem_ne {n : Nat} {j k : Fin n} (h : j ≠ k) (e : Event) (y : System n) : (onSystem j e y)[k] = y[k] :=
  Vector.getElem_set_ne _ _ (Fin.val_ne_of_ne h)

/-- Settles O45: by induction on the history; an event at another engine leaves engine k alone. -/
theorem enginesAreIndependent : Obligations.EnginesAreIndependent := by
  intro n es
  induction es with
  | nil => exact fun y k => rfl
  | cons e es ih =>
    intro y k
    have hrest := ih (onSystem e.1 e.2 y) k
    by_cases hk : e.1 = k
    · subst hk
      rw [List.filter_cons_of_pos (by simp), List.map_cons, onEvents_cons, ← onSystem_same]
      exact hrest
    · rw [List.filter_cons_of_neg (by simpa using hk), ← onSystem_ne hk e.2 y]
      exact hrest

end Sys2Proof.Machine

/-! # Reset and hazards proofs (family 70_reset_and_hazards)

The values after a hardware reset, and the engine at rest: a run stops only where no engine event changes the state, and
that is a faulted engine or one that waits. -/

namespace Sys2Proof.Machine

/-! ## The hardware reset (70_reset_and_hazards.md R140) -/

/-- Settles O38: the engine right after reset is one after a hardware reset, and every hardware reset gives these
values. -/
theorem hardwareResetGivesResetValues : Obligations.HardwareResetGivesResetValues := by
  intro s r hr
  obtain ⟨u, rfl⟩ : ∃ u : State, r = u.hwReset := by
    obtain rfl | rfl := hr
    · exact ⟨State.reset, rfl⟩
    · exact ⟨s, rfl⟩
  refine ⟨u.hwReset_H, u.hwReset_buf, u.hwReset_len, u.hwReset_phase, u.hwReset_fault, u.hwReset_fcause,
    u.hwReset_rxq, rfl, fun bs => ?_⟩
  rw [receive_running bs u.hwReset_fault, u.hwReset_rxq, List.nil_append]

/-! ## How a run ends (R152) -/

theorem onEvent_engine_runSteps (n : Nat) (s : State) : onEvent .engine (runSteps n s) = runSteps (n + 1) s := by
  induction n generalizing s with
  | zero => rfl
  | succ n ih => exact ih (onEvent .engine s)

/-- A run ends in a state that one more engine event keeps. -/
theorem onEvent_engine_drive (C : List Byte) (s : State) : onEvent .engine (drive C s) = drive C s :=
  (onEvent_engine_runSteps _ _).trans (runSteps_eq_of_length_le (Nat.le_succ _) le_rfl)

/-- An engine that is not faulted rests only by waiting: fault entry sets FAULT, and a packet takes bytes from RXQ. -/
theorem decode_eq_wait_of_fixed {s : State} (hfix : onEvent .engine s = s) (hf : s.fault = false) :
    decode s.rxq = .wait := by
  obtain ⟨t, ht⟩ := step_completes hf
  obtain rfl : t = s := (onEvent_engine_of_next ht).symm.trans hfix
  obtain ⟨-, ⟨hwait, -⟩ | ⟨c, rest, -, henter⟩ | ⟨i, rest, hpkt, hexec⟩⟩ := step_cases ht
  · exact hwait
  · have hfault : t.fault = true := by rw [henter, State.enterFault_fault]
    exact nomatch hf.symm.trans hfault
  · have hrxq : t.rxq = rest := rxq_of_exec hexec
    have hlt : rest.length < t.rxq.length := length_of_decode_packet hpkt
    rw [hrxq] at hlt
    exact absurd hlt (Nat.lt_irrefl _)

/-- Settles O44: drive makes steps enough to bring the engine to rest; FAULT, and RXQ while it is 0, say which end it
is. -/
theorem runEndsInOneOfThreeWays : Obligations.RunEndsInOneOfThreeWays := by
  intro C s
  have hwait := decode_eq_wait_of_fixed (onEvent_engine_drive C s)
  cases hf : (drive C s).fault with
  | true => exact .inr (.inl ⟨hf, by simp [RunComplete, hf], by simp [RunWaiting, hf]⟩)
  | false =>
    by_cases hq : (drive C s).rxq = []
    · exact .inl ⟨⟨hf, hq⟩, by simp [RunFaulted, hf], by simp [RunWaiting, hq]⟩
    · exact .inr (.inr ⟨⟨hf, hq, hwait hf⟩, by simp [RunComplete, hq], by simp [RunFaulted, hf]⟩)

end Sys2Proof.Machine
